-- ==== Sys2Proof/Config.lean ====
section
/-! DEFINITION. What the hardware fixes at design time (00_scope.md R6 and the bounds its register rules name).
The constants that differ between sensor families are no constants here: they are registers (00_scope.md R7).
The spec leaves no value undefined (93_implementation_defined.md section 1), so there is no free value either. -/

namespace Sys2Proof.Config

/-- The don't-care sentinel of every high target (40_pulse_classifier.md R103). -/
def dontCare : BitVec 16 := 0xFFFF#16

/-- The ceiling of a normalised duration, a 16-bit value (40_pulse_classifier.md R100). -/
def durMax : Nat := 0xFFFF

/-- The sample counter saturates here (10_state.md R39). -/
def cntMax : BitVec 8 := 255#8

/-- Data samples of a frame: indices 1 to 40 (41_frame_decoder.md R131). -/
def dataBits : Nat := 40

/-- The least value `tick_mul` takes (10_state.md R22). -/
def tickMulMin : BitVec 8 := 1#8

/-- The least length bound (10_state.md R30). -/
def lenFloor : BitVec 8 := 41#8

/-- The greatest length bound (10_state.md R30). -/
def lenCeil : BitVec 8 := 254#8

/-- The least hold time, in ms (10_state.md R31). -/
def holdMsMin : BitVec 8 := 18#8

/-- The least capture timeout, in ms (10_state.md R31). -/
def captoMsMin : BitVec 4 := 1#4

/-- The greatest capture timeout, in ms (10_state.md R31). -/
def captoMsMax : BitVec 4 := 10#4

/-- The greatest writable register index (30_encoding.md R86). -/
def cfgIdxMax : BitVec 4 := 9#4

end Sys2Proof.Config
end

