-- ==== Sys2Proof/Word.lean ====
section
/-! DEFINITION. The words of the block, with the widths of 00_scope.md R6. All values are unsigned (R9). -/

namespace Sys2Proof

/-- An event word `ev[47:0]` (30_encoding.md R80). -/
abbrev EvWord := BitVec 48

/-- A duration, raw in capture ticks or normalised (00_scope.md R6). -/
abbrev Duration := BitVec 16

/-- A 32-bit register image (10_state.md R21). -/
abbrev RegWord := BitVec 32

/-- A register index (10_state.md R21). -/
abbrev RegIdx := BitVec 4

/-- Five payload bytes, byte 0 on top (10_state.md R34, R40). -/
abbrev Bytes5 := BitVec 40

end Sys2Proof
end

