-- ==== Sys2Proof/Machine/State.lean ====
section
/-! DEFINITION. The state: the block's elements (10_state.md R20), and beside them what the environment presents
and the output ports of the last cycle, which a step on State alone needs. -/

namespace Sys2Proof.Machine

/-- The sequencer state (10_state.md R36); encodings 6 and 7 have no constructor (log 12). -/
inductive Fsm where
  | idle | starting | listening | awaiting | decoding | done
deriving DecidableEq, Repr

/-- The requested role of the data line (10_state.md R38). -/
inductive Line where
  | input | driveLow | driveHigh
deriving DecidableEq, Repr

/-- A status code of a read cycle, or `none` for no result (10_state.md R37). -/
inductive Status where
  | ok | timeout | ackMismatch | bitDecodeError | checksumError | framingUnderflow | framingOverflow | none
deriving DecidableEq, Repr

/-- The decode policy (10_state.md R22). -/
inductive Policy where
  | window | sum
deriving DecidableEq, Repr

/-- What a data sample classifies as (40_pulse_classifier.md R104). -/
inductive BitClass where
  | bit0 | bit1 | err
deriving DecidableEq, Repr

/-- The configuration fields (10_state.md R22 to R31). -/
structure CfgRegs where
  policy : Policy
  tickMul : BitVec 8
  ackLow : Duration
  ackHigh : Duration
  ackTol : Duration
  bit0Low : Duration
  bit0High : Duration
  bit1Low : Duration
  bit1High : Duration
  bitTol : Duration
  sumAckMin : Duration
  sumAckMax : Duration
  sumBitLo : Duration
  sumBitHi : Duration
  lenMin : BitVec 8
  lenMax : BitVec 8
  holdMs : BitVec 8
  captoMs : BitVec 4
deriving DecidableEq, Repr

/-- The block state `s` of 10_state.md R20: exactly its elements. -/
structure Block where
  cfg : CfgRegs
  fsm : Fsm
  line : Line
  /-- samples consumed in this read cycle, saturating (R39) -/
  cnt : BitVec 8
  ackOk : Bool
  bitErr : Bool
  /-- the accumulator, not readable (R40) -/
  acc : Bytes5
  /-- the status between its decision and its commit (R41) -/
  pend : Status
  resultCode : Status
  payload : Bytes5
  avail : Bool
  reject : Bool
  illegal : Bool
deriving DecidableEq, Repr

/-- The input pins of one cycle: reset (70_reset_and_hazards.md R260) and the read port's index (43_host_interface.md R195). -/
structure Pins where
  rst : Bool
  rdIdx : RegIdx
deriving DecidableEq, Repr

/-- The output ports of one cycle (42_sequencer.md R161, 43_host_interface.md R195), and whether the presented event
was consumed (42_sequencer.md R160). -/
structure Outputs where
  evReady : Bool
  lineMode : BitVec 2
  armHold : Bool
  armHoldMs : BitVec 8
  capStart : Bool
  capTimeoutMs : BitVec 4
  capRelease : Bool
  done : Bool
  doneCode : BitVec 3
  donePayload : Bytes5
  rdData : RegWord
  consumed : Bool
deriving DecidableEq, Repr

/-- The machine: the block, what its environment will present, and the ports of the last completed cycle.
`inbox` and `pins` are the environment's open schedule (00_scope.md R8) as data: DESIGN CHOICE, log 1 and log 2. -/
structure State where
  blk : Block
  /-- the pins of the coming cycles, the next first; past its end `rst` is 0 and `rd_idx` is 0 (log 2) -/
  pins : List Pins
  /-- what the inbox presents: `some ev` an event word, held until consumed (R160); `none` one cycle with an empty inbox
  (30_encoding.md R88); past its end the inbox is empty (log 1) -/
  inbox : List (Option EvWord)
  /-- the ports of the last completed cycle (log 3) -/
  out : Outputs
deriving DecidableEq, Repr

/-- Reasons the machine stops with a fault: none, since "The block never halts, locks up or enters a fault state on any
input" (60_exceptions.md R223). The type has no constructor, so no one raises it; safe. -/
inductive Fault : Type
deriving DecidableEq, Repr

/-- Reasons the model has no meaning for an event. -/
inductive Refusal where
  /-- An event not modelled yet, by its mnemonic. No arm of `exec` raises it: every event has its meaning. Safe. -/
  | notModelled (mnemonic : String)
deriving DecidableEq, Repr

/-- The configuration at reset (10_state.md R47). -/
def CfgRegs.reset : CfgRegs where
  policy := .window
  tickMul := 1#8
  ackLow := 80#16
  ackHigh := 0xFFFF#16
  ackTol := 20#16
  bit0Low := 0#16
  bit0High := 0#16
  bit1Low := 0#16
  bit1High := 0#16
  bitTol := 0#16
  sumAckMin := 140#16
  sumAckMax := 180#16
  sumBitLo := 0#16
  sumBitHi := 0#16
  lenMin := 41#8
  lenMax := 42#8
  holdMs := 18#8
  captoMs := 10#4

/-- The block at reset (10_state.md R47). -/
def Block.reset : Block where
  cfg := CfgRegs.reset
  fsm := .idle
  line := .driveHigh
  cnt := 0#8
  ackOk := false
  bitErr := false
  acc := 0#40
  pend := .none
  resultCode := .none
  payload := 0#40
  avail := false
  reject := false
  illegal := false

/-- The ports of a cycle with `rst = 1` in the reset state, `rd_idx = 0` (70_reset_and_hazards.md R260). -/
def Outputs.reset : Outputs where
  evReady := false
  lineMode := 2#2
  armHold := false
  armHoldMs := 0#8
  capStart := false
  capTimeoutMs := 0#4
  capRelease := false
  done := false
  doneCode := 0#3
  donePayload := 0#40
  rdData := 0x00000100#32
  consumed := false

/-- The machine right after reset: the block as 10_state.md R47 gives it, nothing presented yet (log 1, log 2), the
ports as the last reset cycle left them (log 3). -/
def State.reset : State where
  blk := Block.reset
  pins := []
  inbox := []
  out := Outputs.reset

end Sys2Proof.Machine
end

