-- ==== Sys2Proof/Syntax.lean ====
section
/-! DEFINITION. The events, one constructor per row of spec/opcode_table.json (30_encoding.md R82). -/

namespace Sys2Proof

/-- An event with its operands as 30_encoding.md R81 names them. -/
inductive Instr where
  /-- `NOP`, 42_sequencer.md R164 -/
  | nop
  /-- `READ`, 42_sequencer.md R163 -/
  | read
  /-- `CFG_WRITE`, 43_host_interface.md R190: register index and register image -/
  | cfgWrite (idx : RegIdx) (data : RegWord)
  /-- `CLR_FLAGS`, 43_host_interface.md R194: bit 0 clears `reject`, bit 1 clears `illegal` -/
  | clrFlags (mask : BitVec 2)
  /-- `HOLD_ELAPSED`, 42_sequencer.md R165 -/
  | holdElapsed
  /-- `SAMPLE`, 41_frame_decoder.md R131: raw low-phase and high-phase durations -/
  | sample (low high : Duration)
  /-- `BUF_END`, 41_frame_decoder.md R135 -/
  | bufEnd
  /-- `CAP_TIMEOUT`, 42_sequencer.md R167 -/
  | capTimeout
deriving DecidableEq, Repr

end Sys2Proof
end

