-- ==== Sys2Proof/Machine/Operands.lean ====
section
/-! DEFINITION. Codes of the enumerations, the pulse classifier (40_pulse_classifier.md), payload bytes, the write and
read of registers (43_host_interface.md). Functions of their operands; none writes machine state by itself (R110). -/

namespace Sys2Proof.Machine

/-! ### Codes -/

/-- The encoding of `fsm` (10_state.md R36). -/
def Fsm.code : Fsm → BitVec 3
  | .idle => 0#3
  | .starting => 1#3
  | .listening => 2#3
  | .awaiting => 3#3
  | .decoding => 4#3
  | .done => 5#3

/-- An accepting state: the block consumes a presented event in it (00_scope.md R13). -/
def Fsm.accepting : Fsm → Bool
  | .idle => true
  | .starting => true
  | .listening => false
  | .awaiting => true
  | .decoding => false
  | .done => false

/-- The encoding of `line`, the value of `line_mode` (10_state.md R38). -/
def Line.code : Line → BitVec 2
  | .input => 0#2
  | .driveLow => 1#2
  | .driveHigh => 2#2

/-- The status codes (10_state.md R37). -/
def Status.code : Status → BitVec 3
  | .ok => 0#3
  | .timeout => 1#3
  | .ackMismatch => 2#3
  | .bitDecodeError => 3#3
  | .checksumError => 4#3
  | .framingUnderflow => 5#3
  | .framingOverflow => 6#3
  | .none => 7#3

/-- The encoding of `policy` (10_state.md R22). -/
def Policy.code : Policy → BitVec 1
  | .window => 0#1
  | .sum => 1#1

/-- The policy a written `CTRL[0]` selects (10_state.md R22). -/
def Policy.ofBit (b : Bool) : Policy := if b then .sum else .window

/-- A flag as one bit. -/
def flagBit (b : Bool) : BitVec 1 := BitVec.ofBool b

/-! ### The pulse classifier -/

/-- `norm(raw) = min(raw * tick_mul, 0xFFFF)`, the product exact (40_pulse_classifier.md R100). -/
def norm (c : CfgRegs) (raw : Duration) : Duration :=
  BitVec.ofNat 16 (min (raw.toNat * c.tickMul.toNat) Config.durMax)

/-- `zext_17(v)` (00_scope.md R9). -/
def zext17 (v : Duration) : BitVec 17 := v.setWidth 17

/-- `win(d, t, tol)` in 17-bit arithmetic (40_pulse_classifier.md R101). -/
def win (d t tol : Duration) : Bool :=
  decide (zext17 t ≤ zext17 d + zext17 tol) && decide (zext17 d ≤ zext17 t + zext17 tol)

/-- `matches(lo, hi, t_lo, t_hi, tol)` (40_pulse_classifier.md R102, R103). -/
def pulseMatches (lo hi tLo tHi tol : Duration) : Bool :=
  win lo tLo tol && (tHi == Config.dontCare || win hi tHi tol)

/-- `cls_win(lo, hi)`: the bit-0 window is tested first (40_pulse_classifier.md R104). -/
def clsWin (c : CfgRegs) (lo hi : Duration) : BitClass :=
  if pulseMatches lo hi c.bit0Low c.bit0High c.bitTol then .bit0
  else if pulseMatches lo hi c.bit1Low c.bit1High c.bitTol then .bit1
  else .err

/-- `ack_win(lo, hi)` (40_pulse_classifier.md R105). -/
def ackWin (c : CfgRegs) (lo hi : Duration) : Bool := pulseMatches lo hi c.ackLow c.ackHigh c.ackTol

/-- `sum17(lo, hi)`, exact (40_pulse_classifier.md R107). -/
def sum17 (lo hi : Duration) : BitVec 17 := zext17 lo + zext17 hi

/-- `ack_sum(lo, hi)`, the OR form (40_pulse_classifier.md R106, 90_conflicts.md C3). -/
def ackSum (c : CfgRegs) (lo hi : Duration) : Bool :=
  !(decide (sum17 lo hi < zext17 c.sumAckMin) || decide (zext17 c.sumAckMax < sum17 lo hi))

/-- `cls_sum(lo, hi)` (40_pulse_classifier.md R108). -/
def clsSum (c : CfgRegs) (lo hi : Duration) : BitClass :=
  if sum17 lo hi < zext17 c.sumBitLo then .err
  else if zext17 c.sumBitHi < sum17 lo hi then .bit1
  else .bit0

/-- `classify_ack(raw_lo, raw_hi)` (40_pulse_classifier.md R109). -/
def classifyAck (c : CfgRegs) (rawLo rawHi : Duration) : Bool :=
  match c.policy with
  | .window => ackWin c (norm c rawLo) (norm c rawHi)
  | .sum => ackSum c (norm c rawLo) (norm c rawHi)

/-- `classify_bit(raw_lo, raw_hi)` (40_pulse_classifier.md R109). -/
def classifyBit (c : CfgRegs) (rawLo rawHi : Duration) : BitClass :=
  match c.policy with
  | .window => clsWin c (norm c rawLo) (norm c rawHi)
  | .sum => clsSum c (norm c rawLo) (norm c rawHi)

/-! ### Payload bytes and the accumulator -/

/-- `B(v, k) = v[39-8k : 32-8k]`, byte 0 transmitted first (10_state.md R34). -/
def payloadByte (v : Bytes5) (k : Nat) : BitVec 8 := v.extractLsb' (32 - 8 * k) 8

/-- A classified bit enters at bit 0: `{acc[38:0], bit}` (41_frame_decoder.md R131). -/
def shiftIn (a : Bytes5) (bit : Bool) : Bytes5 := a.extractLsb' 0 39 ++ flagBit bit

/-- `min(cnt + 1, 255)` (41_frame_decoder.md R131). -/
def countUp (cnt : BitVec 8) : BitVec 8 := if cnt = Config.cntMax then Config.cntMax else cnt + 1#8

/-! ### Register writes, legalised -/

/-- A written `tick_mul`: 0 stores 1 (10_state.md R22). -/
def legalTickMul (v : BitVec 8) : BitVec 8 := if v = 0#8 then Config.tickMulMin else v

/-- `lenclamp(v)` (43_host_interface.md R190). -/
def lenClamp (v : BitVec 8) : BitVec 8 :=
  if v < Config.lenFloor then Config.lenFloor else if v = 255#8 then Config.lenCeil else v

/-- A written `hold_ms`: `max(v, 18)` (43_host_interface.md R190). -/
def legalHoldMs (v : BitVec 8) : BitVec 8 := if v < Config.holdMsMin then Config.holdMsMin else v

/-- A written `capto_ms`: 0 stores 1, else `min(v, 10)` (43_host_interface.md R190). -/
def legalCaptoMs (v : BitVec 4) : BitVec 4 :=
  if v = 0#4 then Config.captoMsMin else if Config.captoMsMax < v then Config.captoMsMax else v

/-- `d[15:0]` of a register image. -/
def loHalf (d : RegWord) : Duration := d.extractLsb' 0 16

/-- `d[31:16]` of a register image. -/
def hiHalf (d : RegWord) : Duration := d.extractLsb' 16 16

/-- The configuration after register `idx` is written with `d` (43_host_interface.md R190). An index above 9 names no
writable register and changes nothing here (43_host_interface.md R192). -/
def writeCfg (c : CfgRegs) (idx : RegIdx) (d : RegWord) : CfgRegs :=
  match idx.toNat with
  | 0x0 => { c with policy := Policy.ofBit (d.getLsbD 0), tickMul := legalTickMul (d.extractLsb' 8 8) }
  | 0x1 => { c with ackLow := loHalf d, ackHigh := hiHalf d }
  | 0x2 => { c with ackTol := loHalf d }
  | 0x3 => { c with bit0Low := loHalf d, bit0High := hiHalf d }
  | 0x4 => { c with bit1Low := loHalf d, bit1High := hiHalf d }
  | 0x5 => { c with bitTol := loHalf d }
  | 0x6 => { c with sumAckMin := loHalf d, sumAckMax := hiHalf d }
  | 0x7 => { c with sumBitLo := loHalf d, sumBitHi := hiHalf d }
  | 0x8 => { c with lenMin := lenClamp (d.extractLsb' 0 8), lenMax := lenClamp (d.extractLsb' 8 8) }
  | 0x9 => { c with holdMs := legalHoldMs (d.extractLsb' 0 8), captoMs := legalCaptoMs (d.extractLsb' 8 4) }
  | _ => c

/-! ### The register read port -/

/-- `RegRead(s, idx)` (43_host_interface.md R197). -/
def regRead (b : Block) (idx : RegIdx) : RegWord :=
  match idx.toNat with
  | 0x0 => (b.cfg.tickMul ++ 0#7 ++ b.cfg.policy.code).setWidth 32
  | 0x1 => b.cfg.ackHigh ++ b.cfg.ackLow
  | 0x2 => b.cfg.ackTol.setWidth 32
  | 0x3 => b.cfg.bit0High ++ b.cfg.bit0Low
  | 0x4 => b.cfg.bit1High ++ b.cfg.bit1Low
  | 0x5 => b.cfg.bitTol.setWidth 32
  | 0x6 => b.cfg.sumAckMax ++ b.cfg.sumAckMin
  | 0x7 => b.cfg.sumBitHi ++ b.cfg.sumBitLo
  | 0x8 => (b.cfg.lenMax ++ b.cfg.lenMin).setWidth 32
  | 0x9 => (b.cfg.captoMs ++ b.cfg.holdMs).setWidth 32
  | 0xA => (b.line.code ++ 0#1 ++ flagBit b.illegal ++ flagBit b.reject ++ flagBit b.avail ++ 0#1
      ++ b.resultCode.code ++ 0#1 ++ b.fsm.code).setWidth 32
  | 0xB => (b.pend.code ++ 0#2 ++ flagBit b.bitErr ++ flagBit b.ackOk ++ b.cnt).setWidth 32
  | 0xC => payloadByte b.payload 3 ++ payloadByte b.payload 2 ++ payloadByte b.payload 1 ++ payloadByte b.payload 0
  | 0xD => (payloadByte b.payload 4).setWidth 32
  | _ => 0#32

/-- The stable short code of a status (43_host_interface.md R198); `NONE` has none. -/
def Status.shortCode : Status → Option String
  | .ok => some "OK"
  | .timeout => some "TO"
  | .ackMismatch => some "NACK"
  | .bitDecodeError => some "DATA"
  | .checksumError => some "CS"
  | .framingUnderflow => some "UNDERFLOW"
  | .framingOverflow => some "OVERFLOW"
  | .none => .none

end Sys2Proof.Machine
end

