-- ==== Sys2Proof/Machine/Flags.lean ====
section
/-! DEFINITION. What decides a status and a flag: the checksum, the status of a frame and its priority, what a status
commits, which states accept which event. -/

namespace Sys2Proof.Machine

/-- `chk(a)`: the sum of the four data bytes mod 256 (41_frame_decoder.md R138). -/
def chk (a : Bytes5) : BitVec 8 := payloadByte a 0 + payloadByte a 1 + payloadByte a 2 + payloadByte a 3

/-- The frame's checksum byte is right (41_frame_decoder.md R138). -/
def chkPass (a : Bytes5) : Bool := payloadByte a 4 == chk a

/-- The status of a received frame: the tests in the order of 41_frame_decoder.md R136, the priority of 60_exceptions.md R226. -/
def frameStatus (b : Block) : Status :=
  if b.cnt < b.cfg.lenMin then .framingUnderflow
  else if b.cfg.lenMax < b.cnt then .framingOverflow
  else if b.ackOk = false then .ackMismatch
  else if b.bitErr = true then .bitDecodeError
  else if chkPass b.acc = false then .checksumError
  else .ok

/-- What `DONE` commits to `payload`: `acc` for `OK` and `CHECKSUM_ERROR`, else 0 (42_sequencer.md R174, 41_frame_decoder.md R140). -/
def committedPayload (st : Status) (acc : Bytes5) : Bytes5 :=
  if st = .ok ∨ st = .checksumError then acc else 0#40

/-- `accepts(op)`: the states that take the event (42_sequencer.md R162). -/
def accepts (i : Instr) (f : Fsm) : Bool :=
  match i with
  | .nop => f.accepting
  | .read => f == .idle
  | .cfgWrite _ _ => f == .idle
  | .clrFlags _ => f.accepting
  | .holdElapsed => f == .starting
  | .sample _ _ => f == .awaiting
  | .bufEnd => f == .awaiting
  | .capTimeout => f == .awaiting

/-- A sticky flag after `CLR_FLAGS` with its mask bit (43_host_interface.md R194). -/
def clearIf (maskBit flag : Bool) : Bool := if maskBit then false else flag

end Sys2Proof.Machine
end

