-- ==== Sys2Proof/Machine/Ops.lean ====
section
/-! DEFINITION. The operations every cycle is made of: the outputs of a cycle, consuming an event, the event errors, the
entry to `DONE` and the return from it, the transient states, reset, and the cycle itself (42_sequencer.md R160). -/

namespace Sys2Proof.Machine

/-- The pins in a cycle past the end of the schedule (log 2). -/
def Pins.low : Pins := { rst := false, rdIdx := 0#4 }

/-- The pins of the coming cycle. -/
def State.pinsNow (s : State) : Pins := s.pins.headD Pins.low

/-- The ports of a cycle in which no rule sets a strobe (42_sequencer.md R161); `ev_ready` is 0 in reset
(70_reset_and_hazards.md R260); `rd_data` shows the state at the start of the cycle (43_host_interface.md R195). -/
def idleOutputs (b : Block) (p : Pins) : Outputs where
  evReady := b.fsm.accepting && !p.rst
  lineMode := b.line.code
  armHold := false
  armHoldMs := 0#8
  capStart := false
  capTimeoutMs := 0#4
  capRelease := false
  done := false
  doneCode := 0#3
  donePayload := 0#40
  rdData := regRead b p.rdIdx
  consumed := false

/-- A cycle begins: its pins are taken and its ports show their idle values. -/
def beginCycle (s : State) : State :=
  { s with pins := s.pins.tail, out := idleOutputs s.blk s.pinsNow }

/-- `consume`: the presented event leaves the inbox (00_scope.md R10). -/
def consume (s : State) : State := { s with inbox := s.inbox.tail, out.consumed := true }

/-- `flag REJECT` (42_sequencer.md R162). -/
def flagReject (s : State) : State := { s with blk.reject := true }

/-- `flag ILLEGAL` (42_sequencer.md R162). -/
def flagIllegal (s : State) : State := { s with blk.illegal := true }

/-- Entry to `DONE`, the trap-entry analogue: the status is saved in `pend`, the line is driven high
(60_exceptions.md R228). -/
def enterDone (st : Status) (s : State) : State :=
  { s with blk.pend := st, blk.line := .driveHigh, blk.fsm := .done }

/-- The `DONE` cycle: the result is committed and reported once, and the block returns to `IDLE` (42_sequencer.md R174,
60_exceptions.md R229). -/
def commitDone (s : State) : State :=
  { s with
    blk.resultCode := s.blk.pend
    blk.payload := committedPayload s.blk.pend s.blk.acc
    blk.avail := true
    blk.fsm := .idle
    out.done := true
    out.doneCode := s.blk.pend.code
    out.donePayload := committedPayload s.blk.pend s.blk.acc }

/-- The `LISTENING` cycle (42_sequencer.md R170). -/
def startCapture (s : State) : State :=
  { s with blk.fsm := .awaiting, out.capStart := true, out.capTimeoutMs := s.blk.cfg.captoMs }

/-- The `DECODING` cycle: the status is resolved, the buffer released (41_frame_decoder.md R136). -/
def resolveFrame (s : State) : State :=
  { enterDone (frameStatus s.blk) s with out.capRelease := true }

/-- A cycle with `rst = 1`: every element takes its reset value, the ports are idle, the inbox is not touched
(70_reset_and_hazards.md R260, R261). -/
def resetCycle (s : State) : State := { s with blk := Block.reset }

/-- One cycle: reset if `rst` is 1; in a transient state that state's cycle, which consumes nothing; in an accepting
state what `body` does with the inbox (42_sequencer.md R160, 70_reset_and_hazards.md R260). -/
def cycle (body : State → State) (s : State) : State :=
  if s.pinsNow.rst then resetCycle (beginCycle s)
  else
    match s.blk.fsm with
    | .listening => startCapture (beginCycle s)
    | .decoding => resolveFrame (beginCycle s)
    | .done => commitDone (beginCycle s)
    | .idle => body (beginCycle s)
    | .starting => body (beginCycle s)
    | .awaiting => body (beginCycle s)

/-- One cycle in which the inbox presents the legal event `i`: consumed in an accepting state, and then its effect if
the state accepts it, else `reject` (42_sequencer.md R162). -/
def presentEvent (i : Instr) (effect : State → State) (s : State) : State :=
  cycle (fun t => if accepts i s.blk.fsm then effect (consume t) else flagReject (consume t)) s

/-- One cycle in which the inbox presents a word that is no legal event (42_sequencer.md R162, 30_encoding.md R84, R85). -/
def presentIllegal (s : State) : State := cycle (fun t => flagIllegal (consume t)) s

/-- One cycle with an empty inbox; a scheduled empty cycle is used up (42_sequencer.md R160, log 1). -/
def emptyInbox (s : State) : State := cycle id { s with inbox := s.inbox.tail }

end Sys2Proof.Machine
end

