-- ==== Sys2Proof/Machine/FrameDecoder.lean ====
section
/-! DEFINITION. The frame decoder's events (41_frame_decoder.md), `SAMPLE` and `BUF_END`, and the reference function of
a whole frame that they implement (R130, R139). -/

namespace Sys2Proof.Machine

/-- A data sample, index 1 to 40, is folded in: a classified bit enters `acc`, the first failure sets `bit_err`, and after
a failure nothing is classified (41_frame_decoder.md R131). -/
def takeBit (low high : Duration) (b : Block) : Block :=
  if b.bitErr then b
  else
    match classifyBit b.cfg low high with
    | .bit0 => { b with acc := shiftIn b.acc false }
    | .bit1 => { b with acc := shiftIn b.acc true }
    | .err => { b with bitErr := true }

/-- A sample is folded into the frame state by its index `cnt` (41_frame_decoder.md R131, R132, R134). -/
def foldSample (low high : Duration) (b : Block) : Block :=
  if b.cnt = 0#8 then { b with ackOk := classifyAck b.cfg low high }
  else if b.cnt.toNat ≤ Config.dataBits then takeBit low high b
  else b

/-- The effect of an accepted `SAMPLE` (41_frame_decoder.md R131). -/
def sampleEffect (low high : Duration) (s : State) : State :=
  { s with blk := { foldSample low high s.blk with cnt := countUp s.blk.cnt, fsm := .awaiting } }

/-- `SAMPLE` (41_frame_decoder.md R131). -/
def execSample (low high : Duration) (s : State) : Host.Outcome State Fault Refusal :=
  .next (presentEvent (.sample low high) (sampleEffect low high) s)

/-- The effect of an accepted `BUF_END` (41_frame_decoder.md R135). -/
def bufEndEffect (s : State) : State := { s with blk.fsm := .decoding }

/-- `BUF_END` (41_frame_decoder.md R135). -/
def execBufEnd (s : State) : Host.Outcome State Fault Refusal := .next (presentEvent .bufEnd bufEndEffect s)

/-! ### The reference function of a frame -/

/-- The loop of `decode(buf)` over the data samples, from the bits `a` gathered so far; `none` at the first sample that
fails to classify (41_frame_decoder.md R130). -/
def decodeBits (c : CfgRegs) : List (Duration × Duration) → Bytes5 → Option Bytes5
  | [], a => some a
  | (lo, hi) :: rest, a =>
    match classifyBit c lo hi with
    | .bit0 => decodeBits c rest (shiftIn a false)
    | .bit1 => decodeBits c rest (shiftIn a true)
    | .err => none

/-- `decode(buf)`: status and payload of a whole frame of raw samples `(lo, hi)` (41_frame_decoder.md R130). The empty
buffer passes the length check under no legal configuration (10_state.md R30); its answer there is immaterial (log 8). -/
def decodeFrame (c : CfgRegs) (buf : List (Duration × Duration)) : Status × Bytes5 :=
  if buf.length < c.lenMin.toNat then (.framingUnderflow, 0#40)
  else if c.lenMax.toNat < buf.length then (.framingOverflow, 0#40)
  else
    match buf with
    | [] => (.ackMismatch, 0#40)
    | (lo, hi) :: rest =>
      if classifyAck c lo hi then
        match decodeBits c (rest.take Config.dataBits) 0#40 with
        | .none => (.bitDecodeError, 0#40)
        | .some a => if chkPass a then (.ok, a) else (.checksumError, a)
      else (.ackMismatch, 0#40)

end Sys2Proof.Machine
end

