-- ==== Sys2Proof/WellFormed.lean ====
section
/-! DEFINITION. Which events have an encoding. The one check is the register index of `CFG_WRITE`, 0x0 to 0x9
(30_encoding.md R82, R86); every other operand takes every value of its width. -/

namespace Sys2Proof

/-- The event has a legal encoding. -/
def Instr.wf : Instr → Bool
  | .nop => true
  | .read => true
  | .cfgWrite idx _ => decide (idx ≤ Config.cfgIdxMax)
  | .clrFlags _ => true
  | .holdElapsed => true
  | .sample _ _ => true
  | .bufEnd => true
  | .capTimeout => true

end Sys2Proof
end

