-- ==== Sys2Proof/Machine/HostInterface.lean ====
section
/-! DEFINITION. The host's events (43_host_interface.md), `CFG_WRITE` and `CLR_FLAGS`, and the reading of a result
(42_sequencer.md R175). -/

namespace Sys2Proof.Machine

/-- The effect of an accepted `CFG_WRITE` (43_host_interface.md R190). -/
def cfgWriteEffect (idx : RegIdx) (data : RegWord) (s : State) : State :=
  { s with blk.cfg := writeCfg s.blk.cfg idx data }

/-- `CFG_WRITE` (43_host_interface.md R190); an index above 9 makes the word illegal, in every accepting state (R192; log 11). -/
def execCfgWrite (idx : RegIdx) (data : RegWord) (s : State) : Host.Outcome State Fault Refusal :=
  if (Instr.cfgWrite idx data).wf then .next (presentEvent (.cfgWrite idx data) (cfgWriteEffect idx data) s)
  else .next (presentIllegal s)

/-- The effect of `CLR_FLAGS`: mask bit 0 clears `reject`, bit 1 clears `illegal` (43_host_interface.md R194). -/
def clrFlagsEffect (mask : BitVec 2) (s : State) : State :=
  { s with
    blk.reject := clearIf (mask.getLsbD 0) s.blk.reject
    blk.illegal := clearIf (mask.getLsbD 1) s.blk.illegal }

/-- `CLR_FLAGS` (43_host_interface.md R194). -/
def execClrFlags (mask : BitVec 2) (s : State) : Host.Outcome State Fault Refusal :=
  .next (presentEvent (.clrFlags mask) (clrFlagsEffect mask) s)

/-- The source's two callbacks, as a consumer of the `done` strobe reads them (42_sequencer.md R175). -/
inductive Callback where
  | onData (payload : Bytes5)
  | onError (code : BitVec 3)
deriving DecidableEq, Repr

/-- The callback a cycle's ports stand for: none without `done`, `onData` for `OK`, else `onError` (42_sequencer.md R175). -/
def Outputs.callback (o : Outputs) : Option Callback :=
  if o.done then
    if o.doneCode = Status.ok.code then some (.onData o.donePayload) else some (.onError o.doneCode)
  else none

end Sys2Proof.Machine
end

