-- ==== Sys2Proof/Machine/Sequencer.lean ====
section
/-! DEFINITION. The sequencer's events (42_sequencer.md): `NOP`, `READ`, `HOLD_ELAPSED`, `CAP_TIMEOUT`. A meaning is the
whole cycle in which the inbox presents the event (log 4). -/

namespace Sys2Proof.Machine

/-- `NOP` (42_sequencer.md R164). -/
def execNop (s : State) : Host.Outcome State Fault Refusal := .next (presentEvent .nop id s)

/-- The effect of an accepted `READ` (42_sequencer.md R163). -/
def readEffect (s : State) : State :=
  { s with
    blk.fsm := .starting
    blk.line := .driveLow
    blk.cnt := 0#8
    blk.ackOk := false
    blk.bitErr := false
    blk.acc := 0#40
    blk.pend := .none
    blk.resultCode := .none
    blk.payload := 0#40
    blk.avail := false
    out.armHold := true
    out.armHoldMs := s.blk.cfg.holdMs }

/-- `READ` (42_sequencer.md R163). -/
def execRead (s : State) : Host.Outcome State Fault Refusal := .next (presentEvent .read readEffect s)

/-- The effect of an accepted `HOLD_ELAPSED`: the line goes straight to input (42_sequencer.md R165). -/
def holdElapsedEffect (s : State) : State := { s with blk.line := .input, blk.fsm := .listening }

/-- `HOLD_ELAPSED` (42_sequencer.md R165). -/
def execHoldElapsed (s : State) : Host.Outcome State Fault Refusal :=
  .next (presentEvent .holdElapsed holdElapsedEffect s)

/-- `CAP_TIMEOUT`: the cycle ends with `TIMEOUT`, without decoding (42_sequencer.md R167). -/
def execCapTimeout (s : State) : Host.Outcome State Fault Refusal :=
  .next (presentEvent .capTimeout (enterDone .timeout) s)

end Sys2Proof.Machine
end

