-- ==== Sys2Proof/Machine/Dispatch.lean ====
section
/-! DEFINITION. The dispatch: one cycle in which the inbox presents the event, by event (42_sequencer.md R162). -/

namespace Sys2Proof.Machine

def exec (i : Instr) (s : State) : Host.Outcome State Fault Refusal :=
  match i with
  | .nop => Sys2Proof.Machine.execNop s
  | .read => Sys2Proof.Machine.execRead s
  | .cfgWrite idx data => Sys2Proof.Machine.execCfgWrite idx data s
  | .clrFlags mask => Sys2Proof.Machine.execClrFlags mask s
  | .holdElapsed => Sys2Proof.Machine.execHoldElapsed s
  | .sample low high => Sys2Proof.Machine.execSample low high s
  | .bufEnd => Sys2Proof.Machine.execBufEnd s
  | .capTimeout => Sys2Proof.Machine.execCapTimeout s

end Sys2Proof.Machine
end

