-- ==== Sys2Proof/Decode.lean ====
section
/-! DEFINITION. Decoding and encoding of event words (30_encoding.md R80 to R90). -/

namespace Sys2Proof

/-- Why a word is no legal event (30_encoding.md R84, R85). The hardware records only that it is illegal (60_exceptions.md R222). -/
inductive IllegalWord where
  /-- `OP` is 0x8 to 0xF -/
  | reservedOpcode
  /-- a must-be-zero bit of a legal `OP` is set -/
  | mustBeZero
  /-- `CFG_WRITE` names an index above 0x9 -/
  | notWritable
deriving DecidableEq, Repr

/-- What decoding a word gives: exactly one event, or the reason there is none (30_encoding.md R90). -/
inductive Decoded where
  | event (i : Instr)
  | illegal (why : IllegalWord)
deriving DecidableEq, Repr

/-- `OP = ev[47:44]` (30_encoding.md R81). -/
def opField (ev : EvWord) : BitVec 4 := ev.extractLsb' 44 4

/-- `IDX = ev[43:40]` (30_encoding.md R81). -/
def idxField (ev : EvWord) : RegIdx := ev.extractLsb' 40 4

/-- `ev[39:32]`, zero in every event (30_encoding.md R81). -/
def zeroField (ev : EvWord) : BitVec 8 := ev.extractLsb' 32 8

/-- `DATA = ev[31:0]` (30_encoding.md R81). -/
def dataField (ev : EvWord) : RegWord := ev.extractLsb' 0 32

/-- `HIGH = DATA[31:16]` (30_encoding.md R81). -/
def highField (ev : EvWord) : Duration := ev.extractLsb' 16 16

/-- `LOW = DATA[15:0]` (30_encoding.md R81). -/
def lowField (ev : EvWord) : Duration := ev.extractLsb' 0 16

/-- `MASK = DATA[1:0]` (30_encoding.md R81). -/
def maskField (ev : EvWord) : BitVec 2 := ev.extractLsb' 0 2

/-- `legal(ev)` as 30_encoding.md R86 writes it. -/
def legal (ev : EvWord) : Bool :=
  match (opField ev).toNat with
  | 0x0 => ev.extractLsb' 0 44 == 0#44
  | 0x1 => ev.extractLsb' 0 44 == 0#44
  | 0x2 => zeroField ev == 0#8 && decide (idxField ev ≤ 9#4)
  | 0x3 => ev.extractLsb' 2 42 == 0#42
  | 0x4 => ev.extractLsb' 0 44 == 0#44
  | 0x5 => ev.extractLsb' 32 12 == 0#12
  | 0x6 => ev.extractLsb' 0 44 == 0#44
  | 0x7 => ev.extractLsb' 0 44 == 0#44
  | _ => false

/-- An event without operands: all 44 bits below `OP` are zero (30_encoding.md R82). -/
def decodeBare (ev : EvWord) (i : Instr) : Decoded :=
  if ev.extractLsb' 0 44 = 0#44 then .event i else .illegal .mustBeZero

/-- Decoding, total on all words (30_encoding.md R82, R90). -/
def decode (ev : EvWord) : Decoded :=
  match (opField ev).toNat with
  | 0x0 => decodeBare ev .nop
  | 0x1 => decodeBare ev .read
  | 0x2 =>
    if zeroField ev = 0#8 then
      if idxField ev ≤ Config.cfgIdxMax then .event (.cfgWrite (idxField ev) (dataField ev))
      else .illegal .notWritable
    else .illegal .mustBeZero
  | 0x3 => if ev.extractLsb' 2 42 = 0#42 then .event (.clrFlags (maskField ev)) else .illegal .mustBeZero
  | 0x4 => decodeBare ev .holdElapsed
  | 0x5 => if ev.extractLsb' 32 12 = 0#12 then .event (.sample (lowField ev) (highField ev)) else .illegal .mustBeZero
  | 0x6 => decodeBare ev .bufEnd
  | 0x7 => decodeBare ev .capTimeout
  | _ => .illegal .reservedOpcode

/-- The word with the given fields, `ev[39:32]` zero (30_encoding.md R81). -/
def packWord (op : BitVec 4) (idx : RegIdx) (data : RegWord) : EvWord := op ++ idx ++ 0#8 ++ data

/-- The word of an event (30_encoding.md R82). -/
def encode : Instr → EvWord
  | .nop => packWord 0x0#4 0#4 0#32
  | .read => packWord 0x1#4 0#4 0#32
  | .cfgWrite idx data => packWord 0x2#4 idx data
  | .clrFlags mask => packWord 0x3#4 0#4 (mask.setWidth 32)
  | .holdElapsed => packWord 0x4#4 0#4 0#32
  | .sample low high => packWord 0x5#4 0#4 (high ++ low)
  | .bufEnd => packWord 0x6#4 0#4 0#32
  | .capTimeout => packWord 0x7#4 0#4 0#32

/-- One row of the opcode map: a word selects it when `ev & mask == val` (30_encoding.md R82). -/
structure OpcodeRow where
  mnemonic : String
  val : EvWord
  mask : EvWord
deriving DecidableEq, Repr

/-- The match and mask table of 30_encoding.md R82. -/
def opcodeRows : List OpcodeRow :=
  [⟨"NOP", 0x000000000000#48, 0xFFFFFFFFFFFF#48⟩,
   ⟨"READ", 0x100000000000#48, 0xFFFFFFFFFFFF#48⟩,
   ⟨"CFG_WRITE", 0x200000000000#48, 0xF0FF00000000#48⟩,
   ⟨"CLR_FLAGS", 0x300000000000#48, 0xFFFFFFFFFFFC#48⟩,
   ⟨"HOLD_ELAPSED", 0x400000000000#48, 0xFFFFFFFFFFFF#48⟩,
   ⟨"SAMPLE", 0x500000000000#48, 0xFFFF00000000#48⟩,
   ⟨"BUF_END", 0x600000000000#48, 0xFFFFFFFFFFFF#48⟩,
   ⟨"CAP_TIMEOUT", 0x700000000000#48, 0xFFFFFFFFFFFF#48⟩]

/-- The word selects the row (30_encoding.md R82). -/
def OpcodeRow.selects (r : OpcodeRow) (ev : EvWord) : Bool := ev &&& r.mask == r.val

/-- The mnemonic of an event, as spec/opcode_table.json spells it. -/
def Instr.mnemonic : Instr → String
  | .nop => "NOP"
  | .read => "READ"
  | .cfgWrite _ _ => "CFG_WRITE"
  | .clrFlags _ => "CLR_FLAGS"
  | .holdElapsed => "HOLD_ELAPSED"
  | .sample _ _ => "SAMPLE"
  | .bufEnd => "BUF_END"
  | .capTimeout => "CAP_TIMEOUT"

/-- The event word of the low `nbits` bits of `w`, numbered as spec/opcode_table.json numbers them: one 48-bit word,
bit 0 least significant (30_encoding.md R80); bits above `nbits` are 0. -/
def tableWord (nbits w : Nat) : EvWord := BitVec.ofNat 48 (w % 2 ^ nbits)

/-- The event the decoder reads from a table row's word. -/
def decodeTableWord (nbits w : Nat) : Option Instr :=
  match decode (tableWord nbits w) with
  | .event i => some i
  | .illegal _ => none

end Sys2Proof
end

