-- ==== Sys2Proof/Machine/Inbox.lean ====
section
/-! DEFINITION. What the inbox presents in a cycle (42_sequencer.md R160), and putting an event before it. -/

namespace Sys2Proof.Machine

/-- The inbox of one cycle: empty, or an event word that is one event or illegal (30_encoding.md R90). -/
inductive Presented where
  | nothing
  | event (i : Instr)
  | illegal
deriving DecidableEq, Repr

/-- A word as the acceptance check sees it: `legal(ev)` and then its event (42_sequencer.md R162). -/
def presentedWord (ev : EvWord) : Presented :=
  match decode ev with
  | .event i => .event i
  | .illegal _ => .illegal

/-- What the inbox presents in the coming cycle (42_sequencer.md R160, log 1). -/
def presented (s : State) : Presented :=
  match s.inbox with
  | [] => .nothing
  | none :: _ => .nothing
  | some ev :: _ => presentedWord ev

/-- `s` with `ev` presented next and `rst` low in the coming cycle (log 5). -/
def presentNext (ev : EvWord) (s : State) : State :=
  { s with
    inbox := some ev :: s.inbox
    pins := match s.pins with
      | [] => []
      | p :: ps => { p with rst := false } :: ps }

end Sys2Proof.Machine
end

