-- ==== Sys2Proof/Machine/Step.lean ====
section
/-! DEFINITION. The step: one clock cycle (42_sequencer.md R160). -/

namespace Sys2Proof.Machine

/-- One clock cycle, by what the inbox presents: a legal event's cycle is its meaning, an illegal word's and an empty
inbox's are shared operations. In a transient state and in reset they differ in nothing but the inbox. -/
def step (s : State) : Host.Outcome State Fault Refusal :=
  match presented s with
  | .nothing => .next (emptyInbox s)
  | .event i => exec i s
  | .illegal => .next (presentIllegal s)

/-- `s` with the event word presented next and `rst` low in the coming cycle (log 5). -/
def State.withFetchWord (s : State) (nbits w : Nat) : State := presentNext (tableWord nbits w) s

end Sys2Proof.Machine
end

