-- ==== Sys2Proof/Machine/Asm.lean ====
section
/-! DEFINITION. The assembler of event programs: lines, pseudo-instructions and their text (30_encoding.md R88, R89). -/

namespace Sys2Proof.Machine

/-- One line of an event program: the syntax of 30_encoding.md R88, then the pseudo-instructions of R89. Numbers are as
written; a number that does not fit is refused by `assembleLine`. -/
inductive AsmLine where
  | nop
  | read
  | cfg (reg value : Nat)
  | clrflags (mask : Nat)
  | hold
  | sample (low high : Nat)
  | bufend
  | captimeout
  | idle (n : Nat)
  | ack
  | bit0
  | bit1
  | release
  | byte (b : Nat)
  | frame (b0 b1 b2 b3 b4 : Nat)
  | frame41 (b0 b1 b2 b3 b4 : Nat)
  | cfgref
  | cfgsum
  | cfgwin
deriving DecidableEq, Repr

/-- `sample low, high` (30_encoding.md R88). -/
def asmSample (low high : Nat) : Option (List (Option EvWord)) :=
  if low < 2 ^ 16 ∧ high < 2 ^ 16 then
    some [some (encode (.sample (BitVec.ofNat 16 low) (BitVec.ofNat 16 high)))]
  else none

/-- `cfg REG, value`; an index above 9 is refused (30_encoding.md R88). -/
def asmCfg (reg value : Nat) : Option (List (Option EvWord)) :=
  if reg ≤ 9 ∧ value < 2 ^ 32 then
    some [some (encode (.cfgWrite (BitVec.ofNat 4 reg) (BitVec.ofNat 32 value)))]
  else none

/-- The pulse of one data bit: `bit0` is `sample 50, 26`, `bit1` is `sample 50, 70` (30_encoding.md R89). -/
def bitWord (b : Bool) : EvWord := if b then encode (.sample 50#16 70#16) else encode (.sample 50#16 26#16)

/-- `ack` is `sample 80, 80` (30_encoding.md R89). -/
def ackWord : EvWord := encode (.sample 80#16 80#16)

/-- `release` is `sample 50, 0` (30_encoding.md R89). -/
def releaseWord : EvWord := encode (.sample 50#16 0#16)

/-- `byte b`: bits 7 down to 0 (30_encoding.md R89). -/
def byteWords (b : Nat) : List (Option EvWord) := [7, 6, 5, 4, 3, 2, 1, 0].map fun k => some (bitWord (b.testBit k))

/-- `frame41`: `ack` and five bytes; a byte above 255 is refused (30_encoding.md R88, R89). -/
def frame41Words (bs : List Nat) : Option (List (Option EvWord)) :=
  if bs.all (fun b => decide (b < 256)) then some (some ackWord :: bs.flatMap byteWords) else none

/-- `cfgref`: the reference configuration (30_encoding.md R89, 92_eei_decisions.md D35). -/
def cfgrefWords : List (Option EvWord) :=
  [some (encode (.cfgWrite 3#4 0x001A0032#32)), some (encode (.cfgWrite 4#4 0x00460032#32)),
   some (encode (.cfgWrite 5#4 10#32)), some (encode (.cfgWrite 7#4 0x0064003C#32))]

/-- What the inbox presents for one line: event words, or for `idle n` that many empty cycles; none where the assembler
refuses the line (30_encoding.md R88, R89). -/
def assembleLine : AsmLine → Option (List (Option EvWord))
  | .nop => some [some (encode .nop)]
  | .read => some [some (encode .read)]
  | .cfg reg value => asmCfg reg value
  | .clrflags mask => if mask < 4 then some [some (encode (.clrFlags (BitVec.ofNat 2 mask)))] else none
  | .hold => some [some (encode .holdElapsed)]
  | .sample low high => asmSample low high
  | .bufend => some [some (encode .bufEnd)]
  | .captimeout => some [some (encode .capTimeout)]
  | .idle n => some (List.replicate n none)
  | .ack => some [some ackWord]
  | .bit0 => some [some (bitWord false)]
  | .bit1 => some [some (bitWord true)]
  | .release => some [some releaseWord]
  | .byte b => if b < 256 then some (byteWords b) else none
  | .frame b0 b1 b2 b3 b4 => (frame41Words [b0, b1, b2, b3, b4]).map (· ++ [some releaseWord])
  | .frame41 b0 b1 b2 b3 b4 => frame41Words [b0, b1, b2, b3, b4]
  | .cfgref => some cfgrefWords
  | .cfgsum => some [some (encode (.cfgWrite 0#4 0x00000101#32))]
  | .cfgwin => some [some (encode (.cfgWrite 0#4 0x00000100#32))]

/-- The inbox schedule of a program; none where a line is refused (30_encoding.md R88). -/
def assemble : List AsmLine → Option (List (Option EvWord))
  | [] => some []
  | l :: ls =>
    match assembleLine l, assemble ls with
    | some ws, some rest => some (ws ++ rest)
    | _, _ => none

/-! ### Text -/

/-- Text without spaces at either end (log 9). -/
def trimSpaces (cs : List Char) : List Char :=
  ((cs.dropWhile (· == ' ')).reverse.dropWhile (· == ' ')).reverse

/-- Text cut at its commas. -/
def splitCommas : List Char → List (List Char)
  | [] => [[]]
  | c :: cs =>
    if c = ',' then [] :: splitCommas cs
    else
      match splitCommas cs with
      | [] => [[c]]
      | w :: ws => (c :: w) :: ws

/-- The value of a digit: decimal, or hexadecimal in either case (log 9). -/
def digitValue (c : Char) : Option Nat :=
  if 48 ≤ c.toNat ∧ c.toNat ≤ 57 then some (c.toNat - 48)
  else if 97 ≤ c.toNat ∧ c.toNat ≤ 102 then some (c.toNat - 87)
  else if 65 ≤ c.toNat ∧ c.toNat ≤ 70 then some (c.toNat - 55)
  else none

/-- The number the digits write in a base, continuing `n`. -/
def digitsValue (base : Nat) : List Char → Nat → Option Nat
  | [], n => some n
  | c :: cs, n =>
    match digitValue c with
    | some d => if d < base then digitsValue base cs (n * base + d) else none
    | none => none

/-- A number, decimal or `0x` hexadecimal (30_encoding.md R88). -/
def parseNumber (cs : List Char) : Option Nat :=
  match cs with
  | [] => none
  | '0' :: 'x' :: [] => none
  | '0' :: 'x' :: ds => digitsValue 16 ds 0
  | ds => digitsValue 10 ds 0

/-- Every operand as a number. -/
def parseNumbers : List (List Char) → Option (List Nat)
  | [] => some []
  | w :: ws =>
    match parseNumber w, parseNumbers ws with
    | some n, some ns => some (n :: ns)
    | _, _ => none

/-- The register names of `cfg`, index 0 first (30_encoding.md R88). -/
def cfgNames : List (List Char) :=
  ["ctrl".toList, "ack_win".toList, "ack_tol".toList, "bit0_win".toList, "bit1_win".toList, "bit_tol".toList,
   "sum_ack".toList, "sum_bit".toList, "len".toList, "timing".toList]

/-- The register a `cfg` line names, by name or by index (30_encoding.md R88). -/
def parseReg (cs : List Char) : Option Nat :=
  match cfgNames.idxOf? cs with
  | some k => some k
  | none => parseNumber cs

/-- The lines whose operands are numbers only, from mnemonic and operands (30_encoding.md R88, R89). -/
def plainLine (name : List Char) (args : List Nat) : Option AsmLine :=
  match args with
  | [] =>
    if name = "nop".toList then some .nop
    else if name = "read".toList then some .read
    else if name = "hold".toList then some .hold
    else if name = "bufend".toList then some .bufend
    else if name = "captimeout".toList then some .captimeout
    else if name = "ack".toList then some .ack
    else if name = "bit0".toList then some .bit0
    else if name = "bit1".toList then some .bit1
    else if name = "release".toList then some .release
    else if name = "cfgref".toList then some .cfgref
    else if name = "cfgsum".toList then some .cfgsum
    else if name = "cfgwin".toList then some .cfgwin
    else none
  | [a] =>
    if name = "clrflags".toList then some (.clrflags a)
    else if name = "idle".toList then some (.idle a)
    else if name = "byte".toList then some (.byte a)
    else none
  | [a, b] => if name = "sample".toList then some (.sample a b) else none
  | [a, b, c, d, e] =>
    if name = "frame".toList then some (.frame a b c d e)
    else if name = "frame41".toList then some (.frame41 a b c d e)
    else none
  | _ => none

/-- One line of text; none where the assembler refuses it (30_encoding.md R88). -/
def parseLine (text : String) : Option AsmLine :=
  let line := trimSpaces text.toList
  let name := line.takeWhile (· != ' ')
  let operands := trimSpaces (line.dropWhile (· != ' '))
  let args := if operands = [] then [] else (splitCommas operands).map trimSpaces
  if name = "cfg".toList then
    match args with
    | [r, v] =>
      match parseReg r, parseNumber v with
      | some reg, some value => some (.cfg reg value)
      | _, _ => none
    | _ => none
  else
    match parseNumbers args with
    | some ns => plainLine name ns
    | none => none

/-- Every line of a program's text. -/
def parseLines : List String → Option (List AsmLine)
  | [] => some []
  | t :: ts =>
    match parseLine t, parseLines ts with
    | some l, some ls => some (l :: ls)
    | _, _ => none

/-- The inbox schedule of a program's text, one line a string (30_encoding.md R88). -/
def assembleText (lines : List String) : Option (List (Option EvWord)) :=
  match parseLines lines with
  | some ls => assemble ls
  | none => none

end Sys2Proof.Machine
end

