-- ==== Sys2Proof/Machine/System.lean ====
section
/-! DEFINITION. Several independent block instances on one clock (60_exceptions.md R240, 42_sequencer.md R177). `N_INST`
is the length of the list (00_scope.md R8; log 6). -/

namespace Sys2Proof.Machine

/-- The instances, each with its own state, inbox and ports (60_exceptions.md R240). -/
structure System where
  insts : List State
deriving DecidableEq, Repr

/-- `n` instances right after reset. -/
def System.reset (n : Nat) : System := { insts := List.replicate n State.reset }

/-- Every instance takes its own step (42_sequencer.md R177); the first stop of one, which no block has
(60_exceptions.md R223), would be the system's. -/
def stepInsts : List State → Host.Outcome (List State) Fault Refusal
  | [] => .next []
  | s :: ss =>
    match step s with
    | .next t =>
      match stepInsts ss with
      | .next ts => .next (t :: ts)
      | .fault r => .fault r
      | .refused r => .refused r
    | .fault r => .fault r
    | .refused r => .refused r

/-- One clock cycle of the system. -/
def System.step (m : System) : Host.Outcome System Fault Refusal :=
  match stepInsts m.insts with
  | .next ts => .next { insts := ts }
  | .fault r => .fault r
  | .refused r => .refused r

end Sys2Proof.Machine
end

