-- ==== Sys2Proof/Safety.lean ====
section
/-! DEFINITION. The terms claims use: the legal configurations, the invariants of 10_state.md R46, runs and what is
counted along them, and the duties of the environment that can be told from events (60_exceptions.md R235). -/

namespace Sys2Proof.Machine

/-! ### Invariants -/

/-- The fields that are clamped on write are in their range (10_state.md R22, R30, R31). -/
abbrev CfgRegs.Legal (c : CfgRegs) : Prop :=
  Config.tickMulMin ≤ c.tickMul ∧
  Config.lenFloor ≤ c.lenMin ∧ c.lenMin ≤ Config.lenCeil ∧
  Config.lenFloor ≤ c.lenMax ∧ c.lenMax ≤ Config.lenCeil ∧
  Config.holdMsMin ≤ c.holdMs ∧
  Config.captoMsMin ≤ c.captoMs ∧ c.captoMs ≤ Config.captoMsMax

/-- The line has the role of its sequencer state (10_state.md R46 (a) to (c)). -/
abbrev Block.LineFits (b : Block) : Prop :=
  (b.fsm = .idle ∨ b.fsm = .done → b.line = .driveHigh) ∧
  (b.fsm = .starting → b.line = .driveLow) ∧
  (b.fsm = .listening ∨ b.fsm = .awaiting ∨ b.fsm = .decoding → b.line = .input)

/-- The result is consistent (10_state.md R46 (d), (e)). -/
abbrev Block.ResultFits (b : Block) : Prop :=
  (b.resultCode ≠ .ok ∧ b.resultCode ≠ .checksumError → b.payload = 0#40) ∧
  (b.avail = true → b.fsm = .idle ∧ b.resultCode ≠ .none)

/-- The read cycle's progress is consistent (10_state.md R46 (f), (g)). -/
abbrev Block.ProgressFits (b : Block) : Prop :=
  (b.fsm = .starting ∨ b.fsm = .listening ∨ b.fsm = .awaiting ∨ b.fsm = .decoding → b.pend = .none) ∧
  (b.fsm = .done → b.pend ≠ .none) ∧
  (b.fsm = .starting ∨ b.fsm = .listening → b.cnt = 0#8)

/-- The invariants of 10_state.md R46, (a) to (g). -/
abbrev Block.Inv (b : Block) : Prop := b.LineFits ∧ b.ResultFits ∧ b.ProgressFits

/-! ### Runs -/

/-- `k` cycles, stopping at the first stop. -/
def run : Nat → State → Host.Outcome State Fault Refusal
  | 0, s => .next s
  | k + 1, s =>
    match step s with
    | .next t => run k t
    | .fault r => .fault r
    | .refused r => .refused r

/-- No coming cycle has `rst = 1`. -/
abbrev State.noReset (s : State) : Prop := ∀ p ∈ s.pins, p.rst = false

/-- The event the coming cycle consumes, if it consumes a legal one (42_sequencer.md R160). -/
def consumedEvent (s : State) : Option Instr :=
  if s.pinsNow.rst then none
  else if s.blk.fsm.accepting then
    match presented s with
    | .event i => some i
    | .nothing => none
    | .illegal => none
  else none

/-- The event the coming cycle consumes and the state accepts (42_sequencer.md R162). -/
def acceptedEvent (s : State) : Option Instr :=
  match consumedEvent s with
  | some i => if accepts i s.blk.fsm then some i else none
  | none => none

/-- Accepted `READ`s in `k` cycles (42_sequencer.md R173). -/
def readsAccepted : Nat → State → Nat
  | 0, _ => 0
  | k + 1, s =>
    (if acceptedEvent s = some .read then 1 else 0) +
      match step s with
      | .next t => readsAccepted k t
      | .fault _ => 0
      | .refused _ => 0

/-- The sample the coming cycle accepts, if it accepts one (41_frame_decoder.md R131). -/
def sampleTaken (s : State) : List (Duration × Duration) :=
  match acceptedEvent s with
  | some (.sample lo hi) => [(lo, hi)]
  | _ => []

/-- The samples of the `SAMPLE`s accepted in `k` cycles, the first first (41_frame_decoder.md R139). -/
def samplesAccepted : Nat → State → List (Duration × Duration)
  | 0, _ => []
  | k + 1, s =>
    sampleTaken s ++
      match step s with
      | .next t => samplesAccepted k t
      | .fault _ => []
      | .refused _ => []

/-- `done` strobes in `k` cycles (42_sequencer.md R173). -/
def doneStrobes : Nat → State → Nat
  | 0, _ => 0
  | k + 1, s =>
    match step s with
    | .next t => (if t.out.done then 1 else 0) + doneStrobes k t
    | .fault _ => 0
    | .refused _ => 0

/-- A read cycle is in progress (42_sequencer.md R171), as a number. -/
def inProgress (s : State) : Nat := if s.blk.fsm = .idle then 0 else 1

/-- What the inbox holds after a cycle that consumed no event: a presented event stays, a scheduled empty cycle is over
(42_sequencer.md R160, log 1). -/
def heldInbox : List (Option EvWord) → List (Option EvWord)
  | none :: rest => rest
  | some ev :: rest => some ev :: rest
  | [] => []

/-- The state after a cycle that consumed the presented event, set no strobe and left the block as `b`: every part is
given, so a claim that a step answers it is the step's whole frame. -/
def afterConsumed (s : State) (b : Block) : State where
  blk := b
  pins := s.pins.tail
  inbox := s.inbox.tail
  out := { idleOutputs s.blk s.pinsNow with consumed := true }

/-- The state after a cycle that consumed no event, left the block as `b` and showed the ports `o`. -/
def afterHeld (s : State) (b : Block) (o : Outputs) : State where
  blk := b
  pins := s.pins.tail
  inbox := heldInbox s.inbox
  out := o

/-- The inbox schedule of a whole read cycle: `READ`, `HOLD_ELAPSED`, the samples `(lo, hi)` of `buf`, `BUF_END`,
back to back (70_reset_and_hazards.md R274). -/
def readCycle (buf : List (Duration × Duration)) : List (Option EvWord) :=
  some (encode .read) :: some (encode .holdElapsed) ::
    (buf.map (fun p => some (encode (.sample p.1 p.2))) ++ [some (encode .bufEnd)])

/-! ### Duties of the environment -/

/-- What the timer and the capture subsystem have been asked and have not yet delivered (60_exceptions.md R235). The
time between, a duty in milliseconds (70_reset_and_hazards.md R270), is not in it: the block has no time base (log 7). -/
structure Duties where
  /-- an `arm_hold` without its `HOLD_ELAPSED` -/
  holdDue : Bool
  /-- a `cap_start` without its terminal event -/
  captureDue : Bool
deriving DecidableEq, Repr

/-- The event is one the duties allow: `HOLD_ELAPSED` only once per `arm_hold`, capture events only between `cap_start`
and the terminal event (60_exceptions.md R235, 70_reset_and_hazards.md R270, R271); the host's events always. -/
def Duties.allow (d : Duties) : Instr → Bool
  | .nop => true
  | .read => true
  | .cfgWrite _ _ => true
  | .clrFlags _ => true
  | .holdElapsed => d.holdDue
  | .sample _ _ => d.captureDue
  | .bufEnd => d.captureDue
  | .capTimeout => d.captureDue

/-- The event is one of the host's (30_encoding.md R82). -/
def fromHost : Instr → Bool
  | .nop => true
  | .read => true
  | .cfgWrite _ _ => true
  | .clrFlags _ => true
  | .holdElapsed => false
  | .sample _ _ => false
  | .bufEnd => false
  | .capTimeout => false

/-- The duties after a cycle with its ports and the event it consumed. -/
def Duties.after (d : Duties) (o : Outputs) (took : Option Instr) : Duties where
  holdDue := o.armHold || (d.holdDue && took != some .holdElapsed)
  captureDue := o.capStart || (d.captureDue && took != some .bufEnd && took != some .capTimeout)

/-- The duties outstanding are those of the sequencer's state. -/
abbrev Duties.Matches (d : Duties) (b : Block) : Prop :=
  (d.holdDue = true ↔ b.fsm = .starting) ∧ (d.captureDue = true ↔ b.fsm = .awaiting)

end Sys2Proof.Machine
end

