-- ==== Sys2Proof/Certificates/Slice0/Obligations.lean ====
section
/-! DEFINITION. The statements for the provers: the spec's numbered rules, as claims about the machine. Where a statement
gives a whole next state, its frame is the record update it writes: every part not named is as before. The parts `pins`
and `inbox` of such a state are the environment's schedule as the model holds it (log 1, log 2), and `out` is the record
of the cycle's ports (log 3); `afterConsumed` and `afterHeld` say how they move. -/

open Sys2Proof Sys2Proof.Machine

/-! ### Reset and registers -/

/-- 10_state.md R47: the reset value of every element of the block state. -/
def Obligations.ResetGivesEveryElementItsValue : Prop :=
  let b := State.reset.blk
  b.fsm = .idle ∧ b.line = .driveHigh ∧ b.cfg.policy = .window ∧ b.cfg.tickMul = 1#8 ∧ b.cfg.ackLow = 80#16 ∧
  b.cfg.ackHigh = 0xFFFF#16 ∧ b.cfg.ackTol = 20#16 ∧ b.cfg.bit0Low = 0#16 ∧ b.cfg.bit0High = 0#16 ∧
  b.cfg.bit1Low = 0#16 ∧ b.cfg.bit1High = 0#16 ∧ b.cfg.bitTol = 0#16 ∧ b.cfg.sumAckMin = 140#16 ∧
  b.cfg.sumAckMax = 180#16 ∧ b.cfg.sumBitLo = 0#16 ∧ b.cfg.sumBitHi = 0#16 ∧ b.cfg.lenMin = 41#8 ∧
  b.cfg.lenMax = 42#8 ∧ b.cfg.holdMs = 18#8 ∧ b.cfg.captoMs = 10#4 ∧ b.cnt = 0#8 ∧ b.ackOk = false ∧
  b.bitErr = false ∧ b.acc = 0#40 ∧ b.pend = .none ∧ b.resultCode = .none ∧ b.payload = 0#40 ∧ b.avail = false ∧
  b.reject = false ∧ b.illegal = false

/-- 10_state.md R21, its last column, through the read port: what each of the sixteen indices reads at reset. -/
def Obligations.ResetRegisterReads : Prop :=
  [0x0#4, 0x1#4, 0x2#4, 0x3#4, 0x4#4, 0x5#4, 0x6#4, 0x7#4, 0x8#4, 0x9#4, 0xA#4, 0xB#4, 0xC#4, 0xD#4, 0xE#4, 0xF#4].map
      (regRead State.reset.blk) =
    [0x00000100#32, 0xFFFF0050#32, 0x00000014#32, 0#32, 0#32, 0#32, 0x00B4008C#32, 0#32, 0x00002A29#32, 0x00000A12#32,
      0x00002070#32, 0x00007000#32, 0#32, 0#32, 0#32, 0#32]

/-- 43_host_interface.md R197, whole: what each of the sixteen indices reads, as a number, in every block state, the
reserved indices 0xE and 0xF too (10_state.md R35). Then, field by field, STATUS, COUNT, PAYLOAD0 and PAYLOAD1 with their
zero bits and reset values (R32, R33, R34). -/
def Obligations.EveryRegisterReadIsItsFields : Prop :=
  (∀ b : Block,
    let byte (k : Nat) : Nat := b.payload.toNat / 2 ^ (32 - 8 * k) % 256
    (regRead b 0x0#4).toNat = b.cfg.policy.code.toNat + 2 ^ 8 * b.cfg.tickMul.toNat ∧
    (regRead b 0x1#4).toNat = b.cfg.ackLow.toNat + 2 ^ 16 * b.cfg.ackHigh.toNat ∧
    (regRead b 0x2#4).toNat = b.cfg.ackTol.toNat ∧
    (regRead b 0x3#4).toNat = b.cfg.bit0Low.toNat + 2 ^ 16 * b.cfg.bit0High.toNat ∧
    (regRead b 0x4#4).toNat = b.cfg.bit1Low.toNat + 2 ^ 16 * b.cfg.bit1High.toNat ∧
    (regRead b 0x5#4).toNat = b.cfg.bitTol.toNat ∧
    (regRead b 0x6#4).toNat = b.cfg.sumAckMin.toNat + 2 ^ 16 * b.cfg.sumAckMax.toNat ∧
    (regRead b 0x7#4).toNat = b.cfg.sumBitLo.toNat + 2 ^ 16 * b.cfg.sumBitHi.toNat ∧
    (regRead b 0x8#4).toNat = b.cfg.lenMin.toNat + 2 ^ 8 * b.cfg.lenMax.toNat ∧
    (regRead b 0x9#4).toNat = b.cfg.holdMs.toNat + 2 ^ 8 * b.cfg.captoMs.toNat ∧
    (regRead b 0xA#4).toNat = b.fsm.code.toNat + 2 ^ 4 * b.resultCode.code.toNat + 2 ^ 8 * b.avail.toNat +
      2 ^ 9 * b.reject.toNat + 2 ^ 10 * b.illegal.toNat + 2 ^ 12 * b.line.code.toNat ∧
    (regRead b 0xB#4).toNat = b.cnt.toNat + 2 ^ 8 * b.ackOk.toNat + 2 ^ 9 * b.bitErr.toNat +
      2 ^ 12 * b.pend.code.toNat ∧
    (regRead b 0xC#4).toNat = byte 0 + 2 ^ 8 * byte 1 + 2 ^ 16 * byte 2 + 2 ^ 24 * byte 3 ∧
    (regRead b 0xD#4).toNat = byte 4 ∧
    (regRead b 0xE#4).toNat = 0 ∧
    (regRead b 0xF#4).toNat = 0) ∧
  (∀ b : Block,
    let st := regRead b 0xA#4
    st.extractLsb' 0 3 = b.fsm.code ∧ st.extractLsb' 4 3 = b.resultCode.code ∧ st.getLsbD 8 = b.avail ∧
    st.getLsbD 9 = b.reject ∧ st.getLsbD 10 = b.illegal ∧ st.extractLsb' 12 2 = b.line.code ∧
    st.getLsbD 3 = false ∧ st.getLsbD 7 = false ∧ st.getLsbD 11 = false ∧ st.extractLsb' 14 18 = 0#18) ∧
  (∀ b : Block,
    let ct := regRead b 0xB#4
    ct.extractLsb' 0 8 = b.cnt ∧ ct.getLsbD 8 = b.ackOk ∧ ct.getLsbD 9 = b.bitErr ∧
    ct.extractLsb' 12 3 = b.pend.code ∧ ct.extractLsb' 10 2 = 0#2 ∧ ct.extractLsb' 15 17 = 0#17) ∧
  (∀ b : Block, ∀ k : Nat, k < 4 →
    (regRead b 0xC#4).extractLsb' (8 * k) 8 = b.payload.extractLsb' (32 - 8 * k) 8) ∧
  (∀ b : Block, (regRead b 0xD#4).extractLsb' 0 8 = b.payload.extractLsb' 0 8 ∧
    (regRead b 0xD#4).extractLsb' 8 24 = 0#24) ∧
  regRead Block.reset 0xA#4 = 0x00002070#32 ∧ regRead Block.reset 0xB#4 = 0x00007000#32 ∧
  regRead Block.reset 0xC#4 = 0#32 ∧ regRead Block.reset 0xD#4 = 0#32

/-- 10_state.md R40: the accumulator is not readable through any register. -/
def Obligations.AccumulatorIsNotReadable : Prop :=
  ∀ (b : Block) (a : Bytes5) (idx : RegIdx), regRead { b with acc := a } idx = regRead b idx

/-- 43_host_interface.md R190 and R193 through the read port: an accepted `CFG_WRITE` makes its register read the
written image with the reserved bits 0 and each clamped field legalised, and leaves every other configuration
register's read as it was. -/
def Obligations.WrittenRegisterReadsBackLegalised : Prop :=
  ∀ (s : State) (idx : RegIdx) (d : RegWord), s.pinsNow.rst = false → s.blk.fsm = .idle → idx ≤ 9#4 →
    ∃ t, exec (.cfgWrite idx d) s = .next t ∧
      (∀ j : RegIdx, j ≤ 9#4 → j ≠ idx → regRead t.blk j = regRead s.blk j) ∧
      (idx = 0#4 → regRead t.blk 0#4 =
        if d.extractLsb' 8 8 = 0#8 then (d &&& 0x00000001#32) ||| 0x00000100#32 else d &&& 0x0000FF01#32) ∧
      (idx = 1#4 ∨ idx = 3#4 ∨ idx = 4#4 ∨ idx = 6#4 ∨ idx = 7#4 → regRead t.blk idx = d) ∧
      (idx = 2#4 ∨ idx = 5#4 → regRead t.blk idx = d &&& 0x0000FFFF#32) ∧
      (idx = 8#4 →
        let clamp (v : Nat) : Nat := if v < 41 then 41 else if v = 255 then 254 else v
        (regRead t.blk 8#4).toNat = clamp (d.toNat % 256) + 256 * clamp (d.toNat / 256 % 256)) ∧
      (idx = 9#4 → (regRead t.blk 9#4).toNat =
        max (d.toNat % 256) 18 +
          256 * (if d.toNat / 256 % 16 = 0 then 1 else min (d.toNat / 256 % 16) 10))

/-- 43_host_interface.md R195 and R196: `rd_data` of a cycle is the register of the state at its start, and reading
changes nothing: whichever index is presented on the read port instead, the machine ends in the same state, but for
`rd_data`. -/
def Obligations.ReadPortShowsTheOldStateAndHasNoEffect : Prop :=
  ∀ (s t : State) (idx : RegIdx), step s = .next t →
    t.out.rdData = regRead s.blk s.pinsNow.rdIdx ∧
    step { s with pins := { rst := s.pinsNow.rst, rdIdx := idx } :: s.pins.tail } =
      .next { t with out := { t.out with rdData := regRead s.blk idx } }

/-- 00_scope.md R11 with the tables of 10_state.md R36, R37 and R38: the numeric encodings of the sequencer states, the
status codes and the line modes, and of the policies (R22); 43_host_interface.md R198: the stable short codes, `NONE` has
no string. -/
def Obligations.EnumerationCodesAndShortCodes : Prop :=
  [Fsm.idle, .starting, .listening, .awaiting, .decoding, .done].map (fun f => f.code.toNat) = [0, 1, 2, 3, 4, 5] ∧
  [Line.input, .driveLow, .driveHigh].map (fun l => l.code.toNat) = [0, 1, 2] ∧
  [Policy.window, .sum].map (fun p => p.code.toNat) = [0, 1] ∧
  [Status.ok, .timeout, .ackMismatch, .bitDecodeError, .checksumError, .framingUnderflow, .framingOverflow, .none].map
      (fun st => (st.code.toNat, st.shortCode)) =
    [(0, some "OK"), (1, some "TO"), (2, some "NACK"), (3, some "DATA"), (4, some "CS"), (5, some "UNDERFLOW"),
      (6, some "OVERFLOW"), (7, none)]

/-! ### Encoding -/

/-- Decoding the encoding of a well-formed event gives it back, with every operand at every value (30_encoding.md R82). -/
def Obligations.DecodeOfEncodeIsTheEvent : Prop := ∀ i : Instr, i.wf = true → decode (encode i) = .event i

/-- Each word has one meaning: a decoded event is well-formed and encodes to the very word (30_encoding.md R82, R90). -/
def Obligations.EncodeOfDecodeIsTheWord : Prop :=
  ∀ (ev : EvWord) (i : Instr), decode ev = .event i → i.wf = true ∧ encode i = ev

/-- 30_encoding.md R86: the legality check, in its own terms, is exactly what decoding accepts. -/
def Obligations.DecodingAcceptsExactlyTheLegalWords : Prop :=
  ∀ ev : EvWord,
    (legal ev = true ↔
      let op := ev.toNat / 2 ^ 44
      ((op = 0 ∨ op = 1 ∨ op = 4 ∨ op = 6 ∨ op = 7) ∧ ev.toNat % 2 ^ 44 = 0) ∨
      (op = 2 ∧ ev.toNat / 2 ^ 32 % 2 ^ 8 = 0 ∧ ev.toNat / 2 ^ 40 % 2 ^ 4 ≤ 9) ∨
      (op = 3 ∧ ev.toNat / 2 ^ 2 % 2 ^ 42 = 0) ∨
      (op = 5 ∧ ev.toNat / 2 ^ 32 % 2 ^ 12 = 0)) ∧
    ((∃ i, decode ev = .event i) ↔ legal ev = true)

/-- 30_encoding.md R90: every word is exactly one row of the table and legal, or illegal; no two rows overlap, their
`OP` values differ. -/
def Obligations.EveryWordIsOneRowOrIllegal : Prop :=
  (∀ ev : EvWord,
    (legal ev = true ∧ ∃ r ∈ opcodeRows, r.selects ev = true ∧ (∀ r' ∈ opcodeRows, r'.selects ev = true → r' = r) ∧
      ∃ i, decode ev = .event i ∧ i.mnemonic = r.mnemonic) ∨
    (legal ev = false ∧ ∃ why, decode ev = .illegal why)) ∧
  opcodeRows.Pairwise (fun r r' =>
    opField r.val ≠ opField r'.val ∧ ∀ ev : EvWord, ¬ (r.selects ev = true ∧ r'.selects ev = true))

/-- Words written out from 30_encoding.md R81 and R82, and what they decode to: sanity only. -/
def Obligations.WordsWrittenFromTheMapDecode : Prop :=
  decode 0x000000000000#48 = .event .nop ∧
  decode 0x100000000000#48 = .event .read ∧
  decode 0x2300001A0032#48 = .event (.cfgWrite 3#4 0x001A0032#32) ∧
  decode 0x300000000002#48 = .event (.clrFlags 2#2) ∧
  decode 0x400000000000#48 = .event .holdElapsed ∧
  decode 0x5000001A0032#48 = .event (.sample 50#16 26#16) ∧
  decode 0x600000000000#48 = .event .bufEnd ∧
  decode 0x700000000000#48 = .event .capTimeout ∧
  decode 0x800000000000#48 = .illegal .reservedOpcode ∧
  decode 0x100000000001#48 = .illegal .mustBeZero ∧
  decode 0x2A0000000000#48 = .illegal .notWritable

/-! ### The step -/

/-- A step runs the event the inbox presents: the cycle is `exec` of the decoded event, whole (42_sequencer.md R160). -/
def Obligations.StepRunsThePresentedEvent : Prop :=
  ∀ (s : State) (ev : EvWord) (rest : List (Option EvWord)) (i : Instr),
    s.inbox = some ev :: rest → decode ev = .event i → step s = exec i s

/-- 42_sequencer.md R162: in an accepting state an illegal word sets only `illegal`, whatever the state; a legal event
the state does not take sets only `reject`; a state takes exactly the events of the rule's table; and an event the
state takes runs its rule. -/
def Obligations.AcceptanceCheck : Prop :=
  (∀ (s : State) (ev : EvWord) (rest : List (Option EvWord)),
    s.pinsNow.rst = false → s.blk.fsm = .idle ∨ s.blk.fsm = .starting ∨ s.blk.fsm = .awaiting →
    s.inbox = some ev :: rest →
    (legal ev = false →
      step s = .next (afterConsumed s { s.blk with illegal := true })) ∧
    (∀ i, decode ev = .event i → accepts i s.blk.fsm = false →
      step s = .next (afterConsumed s { s.blk with reject := true })) ∧
    (∀ i, decode ev = .event i → accepts i s.blk.fsm = true → step s = exec i s)) ∧
  (∀ f : Fsm,
    (accepts .nop f = true ↔ f = .idle ∨ f = .starting ∨ f = .awaiting) ∧
    (accepts .read f = true ↔ f = .idle) ∧
    (∀ idx d, accepts (.cfgWrite idx d) f = true ↔ f = .idle) ∧
    (∀ m, accepts (.clrFlags m) f = true ↔ f = .idle ∨ f = .starting ∨ f = .awaiting) ∧
    (accepts .holdElapsed f = true ↔ f = .starting) ∧
    (∀ lo hi, accepts (.sample lo hi) f = true ↔ f = .awaiting) ∧
    (accepts .bufEnd f = true ↔ f = .awaiting) ∧
    (accepts .capTimeout f = true ↔ f = .awaiting))

/-- 30_encoding.md R84 and R85: a consumed word with a reserved opcode, a nonzero must-be-zero bit or a `CFG_WRITE` to
an index above 9 sets `illegal` and has no other effect. -/
def Obligations.IllegalWordOnlySetsIllegal : Prop :=
  ∀ (s : State) (ev : EvWord) (rest : List (Option EvWord)),
    s.pinsNow.rst = false → s.blk.fsm.accepting = true → s.inbox = some ev :: rest →
    (8 ≤ ev.toNat / 2 ^ 44 ∨
     ((ev.toNat / 2 ^ 44 = 0 ∨ ev.toNat / 2 ^ 44 = 1 ∨ ev.toNat / 2 ^ 44 = 4 ∨ ev.toNat / 2 ^ 44 = 6 ∨
        ev.toNat / 2 ^ 44 = 7) ∧ ev.toNat % 2 ^ 44 ≠ 0) ∨
     (ev.toNat / 2 ^ 44 = 2 ∧ (ev.toNat / 2 ^ 32 % 2 ^ 8 ≠ 0 ∨ 10 ≤ ev.toNat / 2 ^ 40 % 2 ^ 4)) ∨
     (ev.toNat / 2 ^ 44 = 3 ∧ ev.toNat / 2 ^ 2 % 2 ^ 42 ≠ 0) ∨
     (ev.toNat / 2 ^ 44 = 5 ∧ ev.toNat / 2 ^ 32 % 2 ^ 12 ≠ 0)) →
    step s = .next (afterConsumed s { s.blk with illegal := true })

/-- A cycle with an empty inbox in an accepting state changes nothing of the block (42_sequencer.md R160). -/
def Obligations.EmptyInboxChangesNothing : Prop :=
  ∀ s : State, s.pinsNow.rst = false → s.blk.fsm.accepting = true → s.inbox.head?.join = none →
    step s = .next { afterConsumed s s.blk with out := idleOutputs s.blk s.pinsNow }

/-- 42_sequencer.md R161 with 70_reset_and_hazards.md R260: the ports of every cycle. Each strobe is high exactly in the cycle in which its rule sets it,
and its data ports are 0 in every other cycle. That `ev_ready` is 0 in a cycle with `rst = 1` is
70_reset_and_hazards.md R260. That `line_mode` in the first such cycle is still the old line is the reading of log 4,
which calls a claim about that port in that cycle unsafe. -/
def Obligations.PortsOfACycle : Prop :=
  ∀ s t : State, step s = .next t →
    t.out.evReady = (!s.pinsNow.rst && (s.blk.fsm == .idle || s.blk.fsm == .starting || s.blk.fsm == .awaiting)) ∧
    t.out.lineMode = s.blk.line.code ∧
    t.out.armHold = decide (acceptedEvent s = some .read) ∧
    t.out.armHoldMs = (if acceptedEvent s = some .read then s.blk.cfg.holdMs else 0#8) ∧
    t.out.capStart = (!s.pinsNow.rst && s.blk.fsm == .listening) ∧
    t.out.capTimeoutMs = (if s.pinsNow.rst = false ∧ s.blk.fsm = .listening then s.blk.cfg.captoMs else 0#4) ∧
    t.out.capRelease = (!s.pinsNow.rst && s.blk.fsm == .decoding) ∧
    t.out.done = (!s.pinsNow.rst && s.blk.fsm == .done) ∧
    t.out.doneCode = (if s.pinsNow.rst = false ∧ s.blk.fsm = .done then s.blk.pend.code else 0#3) ∧
    t.out.donePayload =
      (if s.pinsNow.rst = false ∧ s.blk.fsm = .done then committedPayload s.blk.pend s.blk.acc else 0#40)

/-- 70_reset_and_hazards.md R260: in a cycle with `rst = 1` no event is consumed, every strobe and its data are 0, and
every state element takes its reset value, so the line is driven high from that clock edge. An event presented stays
presented (R261). -/
def Obligations.ResetCycleAbandonsEverything : Prop :=
  ∀ s : State, s.pinsNow.rst = true →
    ∃ t, step s = .next t ∧ t.blk = State.reset.blk ∧
      (∀ (ev : EvWord) (rest : List (Option EvWord)), s.inbox = some ev :: rest → t.inbox = s.inbox) ∧
      t.out.evReady = false ∧
      t.out.consumed = false ∧ t.out.armHold = false ∧ t.out.armHoldMs = 0#8 ∧ t.out.capStart = false ∧
      t.out.capTimeoutMs = 0#4 ∧ t.out.capRelease = false ∧ t.out.done = false ∧ t.out.doneCode = 0#3 ∧
      t.out.donePayload = 0#40 ∧ t.blk.line = .driveHigh

/-- 60_exceptions.md R223: every step and every event in every state answers a next state; a transient state is always
left; each waiting state is left by an event. -/
def Obligations.BlockNeverStops : Prop :=
  (∀ s : State, ∃ t, step s = .next t) ∧
  (∀ (i : Instr) (s : State), ∃ t, exec i s = .next t) ∧
  (∀ s t : State, s.blk.fsm = .listening ∨ s.blk.fsm = .decoding ∨ s.blk.fsm = .done → step s = .next t →
    t.blk.fsm ≠ s.blk.fsm) ∧
  (∀ s : State, s.pinsNow.rst = false → s.blk.fsm = .idle ∨ s.blk.fsm = .starting ∨ s.blk.fsm = .awaiting →
    ∃ i t, i.wf = true ∧ exec i s = .next t ∧ t.blk.fsm ≠ s.blk.fsm)

/-! ### The events -/

/-- 42_sequencer.md R164: `NOP` is consumed in an accepting state and changes nothing; a word of opcode 0 with any other
bit set sets `illegal`. -/
def Obligations.NopIsConsumedAndChangesNothing : Prop :=
  encode .nop = 0x000000000000#48 ∧
  ∀ s : State, s.pinsNow.rst = false → s.blk.fsm = .idle ∨ s.blk.fsm = .starting ∨ s.blk.fsm = .awaiting →
    exec .nop s = .next (afterConsumed s s.blk) ∧
    ∀ (ev : EvWord) (rest : List (Option EvWord)), s.inbox = some ev :: rest → ev.toNat / 2 ^ 44 = 0 → ev.toNat ≠ 0 →
      step s = .next (afterConsumed s { s.blk with illegal := true })

/-- 42_sequencer.md R163: `READ` in `IDLE` starts a read cycle, drives the line low, arms the hold timer and clears the
frame and the result; in `STARTING` and `AWAITING` it only sets `reject`. -/
def Obligations.ReadStartsACycleInIdle : Prop :=
  encode .read = 0x100000000000#48 ∧
  ∀ s : State, s.pinsNow.rst = false →
    (s.blk.fsm = .idle →
      exec .read s = .next
        { afterConsumed s { s.blk with
            fsm := .starting, line := .driveLow, cnt := 0#8, ackOk := false, bitErr := false, acc := 0#40,
            pend := .none, resultCode := .none, payload := 0#40, avail := false } with
          out := { idleOutputs s.blk s.pinsNow with
            consumed := true, armHold := true, armHoldMs := s.blk.cfg.holdMs } }) ∧
    (s.blk.fsm = .starting ∨ s.blk.fsm = .awaiting →
      exec .read s = .next (afterConsumed s { s.blk with reject := true }))

/-- 42_sequencer.md R165: `HOLD_ELAPSED` in `STARTING` switches the line to input and moves to `LISTENING`; in `IDLE` and
`AWAITING` it only sets `reject`. -/
def Obligations.HoldElapsedReleasesTheLine : Prop :=
  encode .holdElapsed = 0x400000000000#48 ∧
  ∀ s : State, s.pinsNow.rst = false →
    (s.blk.fsm = .starting →
      exec .holdElapsed s = .next
        (afterConsumed s { s.blk with line := .input, fsm := .listening })) ∧
    (s.blk.fsm = .idle ∨ s.blk.fsm = .awaiting →
      exec .holdElapsed s = .next (afterConsumed s { s.blk with reject := true }))

/-- 42_sequencer.md R167: `CAP_TIMEOUT` in `AWAITING` ends the cycle with `TIMEOUT`, the line driven high, the frame
state as it is and no buffer released, and the next cycle reports code 1 with payload 0; in `IDLE` and `STARTING` it
only sets `reject`. -/
def Obligations.CapTimeoutEndsTheCycle : Prop :=
  encode .capTimeout = 0x700000000000#48 ∧
  ∀ s : State, s.pinsNow.rst = false →
    (s.blk.fsm = .awaiting →
      ∃ t, exec .capTimeout s = .next t ∧
        t = (afterConsumed s { s.blk with pend := .timeout, line := .driveHigh, fsm := .done }) ∧
        (t.pinsNow.rst = false → ∃ u, step t = .next u ∧ u.out.done = true ∧ u.out.doneCode = 1#3 ∧
          u.out.donePayload = 0#40 ∧ u.out.capRelease = false ∧ u.blk.payload = 0#40 ∧ u.blk.fsm = .idle)) ∧
    (s.blk.fsm = .idle ∨ s.blk.fsm = .starting →
      exec .capTimeout s = .next (afterConsumed s { s.blk with reject := true }))

/-- 41_frame_decoder.md R135: `BUF_END` in `AWAITING` moves to `DECODING`; in `IDLE` and `STARTING` it only sets
`reject`. -/
def Obligations.BufEndStartsDecoding : Prop :=
  encode .bufEnd = 0x600000000000#48 ∧
  ∀ s : State, s.pinsNow.rst = false →
    (s.blk.fsm = .awaiting →
      exec .bufEnd s = .next (afterConsumed s { s.blk with fsm := .decoding })) ∧
    (s.blk.fsm = .idle ∨ s.blk.fsm = .starting →
      exec .bufEnd s = .next (afterConsumed s { s.blk with reject := true }))

/-- 41_frame_decoder.md R131 and R132 (with R134): `SAMPLE`, word 0x5000hhhhllll, in `AWAITING` counts itself, saturating, and by its index writes
at most one of `ack_ok`, `bit_err`, `acc`; in `IDLE` and `STARTING` it only sets `reject`. -/
def Obligations.SampleIsFoldedByItsIndex : Prop :=
  (∀ lo hi : Duration, (encode (.sample lo hi)).toNat = 5 * 2 ^ 44 + hi.toNat * 2 ^ 16 + lo.toNat) ∧
  ∀ (s : State) (lo hi : Duration), s.pinsNow.rst = false →
    (s.blk.fsm = .awaiting →
      let bit : Nat := if classifyBit s.blk.cfg lo hi = .bit1 then 1 else 0
      ∃ b : Block,
        exec (.sample lo hi) s = .next
          (afterConsumed s { b with cnt := BitVec.ofNat 8 (min (s.blk.cnt.toNat + 1) 255) }) ∧
        (s.blk.cnt.toNat = 0 → b = { s.blk with ackOk := classifyAck s.blk.cfg lo hi }) ∧
        (1 ≤ s.blk.cnt.toNat ∧ s.blk.cnt.toNat ≤ 40 ∧ s.blk.bitErr = false →
          (classifyBit s.blk.cfg lo hi = .err → b = { s.blk with bitErr := true }) ∧
          (classifyBit s.blk.cfg lo hi ≠ .err →
            b = { s.blk with acc := BitVec.ofNat 40 (2 * s.blk.acc.toNat + bit) })) ∧
        (41 ≤ s.blk.cnt.toNat ∨ (1 ≤ s.blk.cnt.toNat ∧ s.blk.bitErr = true) → b = s.blk)) ∧
    (s.blk.fsm = .idle ∨ s.blk.fsm = .starting →
      exec (.sample lo hi) s = .next (afterConsumed s { s.blk with reject := true }))

/-- 43_host_interface.md R190 (with R191, R192): `CFG_WRITE`, word 0x2i00dddddddd, in `IDLE` writes the fields of its register, legalised, and nothing
else; in `STARTING` and `AWAITING` it only sets `reject`; with an index above 9 it only sets `illegal`, in every
accepting state. -/
def Obligations.CfgWriteWritesOneRegister : Prop :=
  (∀ (idx : RegIdx) (d : RegWord),
    (encode (.cfgWrite idx d)).toNat = 2 * 2 ^ 44 + idx.toNat * 2 ^ 40 + d.toNat) ∧
  ∀ (s : State) (idx : RegIdx) (d : RegWord), s.pinsNow.rst = false → s.blk.fsm.accepting = true →
    let written (c : CfgRegs) : State := afterConsumed s { s.blk with cfg := c }
    let lo := d.extractLsb' 0 16
    let hi := d.extractLsb' 16 16
    let clamp (v : BitVec 8) : BitVec 8 := if v.toNat < 41 then 41#8 else if v.toNat = 255 then 254#8 else v
    (s.blk.fsm = .idle →
      exec (.cfgWrite 0#4 d) s = .next (written { s.blk.cfg with
        policy := if d.getLsbD 0 then .sum else .window,
        tickMul := if d.extractLsb' 8 8 = 0#8 then 1#8 else d.extractLsb' 8 8 }) ∧
      exec (.cfgWrite 1#4 d) s = .next (written { s.blk.cfg with ackLow := lo, ackHigh := hi }) ∧
      exec (.cfgWrite 2#4 d) s = .next (written { s.blk.cfg with ackTol := lo }) ∧
      exec (.cfgWrite 3#4 d) s = .next (written { s.blk.cfg with bit0Low := lo, bit0High := hi }) ∧
      exec (.cfgWrite 4#4 d) s = .next (written { s.blk.cfg with bit1Low := lo, bit1High := hi }) ∧
      exec (.cfgWrite 5#4 d) s = .next (written { s.blk.cfg with bitTol := lo }) ∧
      exec (.cfgWrite 6#4 d) s = .next (written { s.blk.cfg with sumAckMin := lo, sumAckMax := hi }) ∧
      exec (.cfgWrite 7#4 d) s = .next (written { s.blk.cfg with sumBitLo := lo, sumBitHi := hi }) ∧
      exec (.cfgWrite 8#4 d) s = .next (written { s.blk.cfg with
        lenMin := clamp (d.extractLsb' 0 8), lenMax := clamp (d.extractLsb' 8 8) }) ∧
      exec (.cfgWrite 9#4 d) s = .next (written { s.blk.cfg with
        holdMs := BitVec.ofNat 8 (max (d.extractLsb' 0 8).toNat 18),
        captoMs := if d.extractLsb' 8 4 = 0#4 then 1#4 else BitVec.ofNat 4 (min (d.extractLsb' 8 4).toNat 10) })) ∧
    (s.blk.fsm = .starting ∨ s.blk.fsm = .awaiting → idx.toNat ≤ 9 →
      exec (.cfgWrite idx d) s = .next (afterConsumed s { s.blk with reject := true })) ∧
    (10 ≤ idx.toNat →
      exec (.cfgWrite idx d) s = .next (afterConsumed s { s.blk with illegal := true }))

/-- 43_host_interface.md R194: `CLR_FLAGS`, word 0x30000000000m, in an accepting state clears `reject` if mask bit 0 is set, `illegal` if mask
bit 1 is set, and changes nothing else; a word of opcode 3 with any of bits 43:2 set clears nothing and sets `illegal`. -/
def Obligations.ClrFlagsClearsByItsMask : Prop :=
  (∀ mask : BitVec 2, (encode (.clrFlags mask)).toNat = 3 * 2 ^ 44 + mask.toNat) ∧
  ∀ s : State, s.pinsNow.rst = false → s.blk.fsm = .idle ∨ s.blk.fsm = .starting ∨ s.blk.fsm = .awaiting →
    (∀ mask : BitVec 2,
      exec (.clrFlags mask) s = .next
        (afterConsumed s { s.blk with
          reject := s.blk.reject && !mask.getLsbD 0, illegal := s.blk.illegal && !mask.getLsbD 1 })) ∧
    (∀ (ev : EvWord) (rest : List (Option EvWord)), s.inbox = some ev :: rest → ev.toNat / 2 ^ 44 = 3 →
      ev.toNat / 4 % 2 ^ 42 ≠ 0 →
      step s = .next (afterConsumed s { s.blk with illegal := true }))

/-! ### The transient states -/

/-- 42_sequencer.md R170: the `LISTENING` cycle consumes no event, strobes `cap_start` with the timeout and moves to
`AWAITING`, whatever the inbox presents. -/
def Obligations.ListeningStartsTheCapture : Prop :=
  ∀ s : State, s.pinsNow.rst = false → s.blk.fsm = .listening →
    step s = .next (afterHeld s { s.blk with fsm := .awaiting }
      { idleOutputs s.blk s.pinsNow with capStart := true, capTimeoutMs := s.blk.cfg.captoMs })

/-- 41_frame_decoder.md R136 (with R137, R138, 60_exceptions.md R226): the `DECODING` cycle consumes no event, resolves
the status in the order length, acknowledgement, bits, checksum, drives the line high and releases the buffer. -/
def Obligations.DecodingResolvesTheStatus : Prop :=
  ∀ s : State, s.pinsNow.rst = false → s.blk.fsm = .decoding →
    let byte (k : Nat) : Nat := s.blk.acc.toNat / 2 ^ (32 - 8 * k) % 256
    let status : Status :=
      if s.blk.cnt.toNat < s.blk.cfg.lenMin.toNat then .framingUnderflow
      else if s.blk.cfg.lenMax.toNat < s.blk.cnt.toNat then .framingOverflow
      else if s.blk.ackOk = false then .ackMismatch
      else if s.blk.bitErr = true then .bitDecodeError
      else if byte 4 ≠ (byte 0 + byte 1 + byte 2 + byte 3) % 256 then .checksumError
      else .ok
    step s = .next (afterHeld s { s.blk with pend := status, line := .driveHigh, fsm := .done }
      { idleOutputs s.blk s.pinsNow with capRelease := true })

/-- 42_sequencer.md R174, 41_frame_decoder.md R140: the `DONE` cycle consumes no event, commits and reports the status
with the accumulator for `OK` and `CHECKSUM_ERROR` and 0 for every other status, and returns to `IDLE`. -/
def Obligations.DoneCommitsAndReports : Prop :=
  ∀ s : State, s.pinsNow.rst = false → s.blk.fsm = .done →
    let p : Bytes5 :=
      match s.blk.pend with
      | .ok => s.blk.acc
      | .checksumError => s.blk.acc
      | .timeout => 0#40
      | .ackMismatch => 0#40
      | .bitDecodeError => 0#40
      | .framingUnderflow => 0#40
      | .framingOverflow => 0#40
      | .none => 0#40
    step s = .next (afterHeld s { s.blk with resultCode := s.blk.pend, payload := p, avail := true, fsm := .idle }
      { idleOutputs s.blk s.pinsNow with done := true, doneCode := s.blk.pend.code, donePayload := p })

/-- 42_sequencer.md R175: a consumer reads the ports of a cycle as `onData` when it reports `OK`, as `onError` of the
code when it reports another status, and as no callback when the cycle is no `DONE` cycle. -/
def Obligations.DoneStrobeIsTheCallback : Prop :=
  ∀ s t : State, step s = .next t →
    t.out.callback =
      if s.pinsNow.rst = false ∧ s.blk.fsm = .done then
        if s.blk.pend = .ok then some (.onData s.blk.acc) else some (.onError s.blk.pend.code)
      else none

/-! ### Rules of the whole machine -/

/-- 42_sequencer.md R176: the sequencer's transitions, from every state, for every accepted event or none. -/
def Obligations.SequencerTransitions : Prop :=
  ∀ s t : State, s.pinsNow.rst = false → step s = .next t →
    t.blk.fsm =
      match s.blk.fsm with
      | .idle => if acceptedEvent s = some .read then .starting else .idle
      | .starting => if acceptedEvent s = some .holdElapsed then .listening else .starting
      | .listening => .awaiting
      | .awaiting =>
        if acceptedEvent s = some .bufEnd then .decoding
        else if acceptedEvent s = some .capTimeout then .done
        else .awaiting
      | .decoding => .done
      | .done => .idle

/-- 43_host_interface.md R191: without reset, a step changes the configuration only by an accepted `CFG_WRITE`, in
`IDLE`; so it is fixed from an accepted `READ` to the commit of its result. -/
def Obligations.ConfigurationChangesOnlyInIdle : Prop :=
  ∀ s t : State, s.pinsNow.rst = false → step s = .next t →
    (s.blk.fsm ≠ .idle → t.blk.cfg = s.blk.cfg) ∧
    (t.blk.cfg ≠ s.blk.cfg → ∃ idx d, acceptedEvent s = some (.cfgWrite idx d) ∧ t.blk.cfg = writeCfg s.blk.cfg idx d)

/-- 10_state.md R38: only an accepted `READ`, an accepted `HOLD_ELAPSED` and the two transitions into `DONE` write the
line. -/
def Obligations.OnlyFourTransitionsWriteTheLine : Prop :=
  ∀ s t : State, s.pinsNow.rst = false → step s = .next t → t.blk.line ≠ s.blk.line →
    (acceptedEvent s = some .read ∧ t.blk.line = .driveLow) ∨
    (acceptedEvent s = some .holdElapsed ∧ t.blk.line = .input) ∨
    ((s.blk.fsm = .decoding ∨ acceptedEvent s = some .capTimeout) ∧ t.blk.line = .driveHigh ∧ t.blk.fsm = .done)

/-- 10_state.md R39 and R40: without reset, the frame state and the accumulator are written only by an accepted `READ`,
which clears them, and an accepted `SAMPLE`. -/
def Obligations.OnlyReadAndSampleWriteTheFrameState : Prop :=
  ∀ s t : State, s.pinsNow.rst = false → step s = .next t →
    (acceptedEvent s = some .read → t.blk.cnt = 0#8 ∧ t.blk.ackOk = false ∧ t.blk.bitErr = false ∧ t.blk.acc = 0#40) ∧
    ((t.blk.cnt ≠ s.blk.cnt ∨ t.blk.ackOk ≠ s.blk.ackOk ∨ t.blk.bitErr ≠ s.blk.bitErr ∨ t.blk.acc ≠ s.blk.acc) →
      acceptedEvent s = some .read ∨ ∃ lo hi, acceptedEvent s = some (.sample lo hi))

/-- 10_state.md R41 and R42: without reset, `pend` is written only where a status is decided or cleared, and the result
only by an accepted `READ`, which clears it, and by the `DONE` commit. -/
def Obligations.OnlyReadAndDoneWriteTheResult : Prop :=
  ∀ s t : State, s.pinsNow.rst = false → step s = .next t →
    (acceptedEvent s = some .read →
      t.blk.pend = .none ∧ t.blk.resultCode = .none ∧ t.blk.payload = 0#40 ∧ t.blk.avail = false) ∧
    ((t.blk.resultCode ≠ s.blk.resultCode ∨ t.blk.payload ≠ s.blk.payload ∨ t.blk.avail ≠ s.blk.avail) →
      acceptedEvent s = some .read ∨ s.blk.fsm = .done) ∧
    (t.blk.pend ≠ s.blk.pend →
      acceptedEvent s = some .read ∨ acceptedEvent s = some .capTimeout ∨ s.blk.fsm = .decoding)

/-- 10_state.md R43 and 60_exceptions.md R222, without reset: a sticky flag is cleared only by an accepted `CLR_FLAGS`
with its mask bit; `reject` is set only by a consumed event the state does not take, `illegal` only by a consumed
illegal word. -/
def Obligations.StickyFlagsAreSetAndClearedOnlyByTheirRules : Prop :=
  ∀ s t : State, s.pinsNow.rst = false → step s = .next t →
    (s.blk.reject = true → t.blk.reject = false → ∃ m, acceptedEvent s = some (.clrFlags m) ∧ m.getLsbD 0 = true) ∧
    (s.blk.illegal = true → t.blk.illegal = false → ∃ m, acceptedEvent s = some (.clrFlags m) ∧ m.getLsbD 1 = true) ∧
    (s.blk.reject = false → (t.blk.reject = true ↔ ∃ i, consumedEvent s = some i ∧ acceptedEvent s = none)) ∧
    (s.blk.illegal = false →
      (t.blk.illegal = true ↔ s.blk.fsm.accepting = true ∧ ∃ ev, s.inbox.head? = some (some ev) ∧ legal ev = false))

/-- 10_state.md R43: the sticky flags influence no other rule. Two machines that differ only in them step to machines
that differ only in them, but for the read port, which shows them. -/
def Obligations.StickyFlagsInfluenceNothingElse : Prop :=
  ∀ (s t : State) (r q : Bool), step s = .next t →
    ∃ (r' q' : Bool) (x : RegWord),
      step { s with blk := { s.blk with reject := r, illegal := q } } =
        .next { t with blk := { t.blk with reject := r', illegal := q' }, out := { t.out with rdData := x } } ∧
      (s.pinsNow.rdIdx ≠ 0xA#4 → x = t.out.rdData)

/-- 20_memory.md R67: an accepted `CFG_WRITE` of the same value twice has the effect of once, `CLR_FLAGS` is idempotent,
and `NOP` has no effect, on the whole block, in every accepting state. -/
def Obligations.HostEventsAreIdempotent : Prop :=
  ∀ (i : Instr) (s t u : State), (i = .nop ∨ (∃ m, i = .clrFlags m) ∨ ∃ idx d, i = .cfgWrite idx d) →
    s.blk.fsm.accepting = true → s.pinsNow.rst = false → t.pinsNow.rst = false →
    exec i s = .next t → exec i t = .next u →
    u.blk = t.blk ∧ (i = .nop → t.blk = s.blk)

/-! ### Invariants -/

/-- 10_state.md R46: every step, with reset or without, keeps (a) to (g). -/
def Obligations.EveryStepKeepsTheInvariants : Prop :=
  ∀ s t : State, s.blk.Inv → step s = .next t → t.blk.Inv

/-- 10_state.md R46: (a) to (g) hold at reset. -/
def Obligations.ResetMeetsTheInvariants : Prop := State.reset.blk.Inv ∧ State.reset.blk.cfg.Legal

/-- 10_state.md R22, R30, R31: the clamped fields stay in their ranges at every step (93_implementation_defined.md S6). -/
def Obligations.EveryStepKeepsTheConfigurationLegal : Prop :=
  ∀ s t : State, s.blk.cfg.Legal → step s = .next t → t.blk.cfg.Legal

/-! ### The classifier -/

/-- 40_pulse_classifier.md R100: normalisation is the exact product, saturated at 0xFFFF. -/
def Obligations.NormalisationSaturates : Prop :=
  ∀ (c : CfgRegs) (raw : Duration), (norm c raw).toNat = min (raw.toNat * c.tickMul.toNat) 0xFFFF

/-- 40_pulse_classifier.md R101: the window test is the integer test with both bounds inclusive; nothing wraps. -/
def Obligations.WindowIsTheIntegerInterval : Prop :=
  ∀ d t tol : Duration,
    win d t tol = true ↔ (t.toNat : Int) - tol.toNat ≤ d.toNat ∧ (d.toNat : Int) ≤ t.toNat + tol.toNat

/-- 40_pulse_classifier.md R102 to R105: under policy WINDOW, in integers, the low half is always checked, the high half
unless its target is 0xFFFF, the bit-0 window before the bit-1 window. -/
def Obligations.WindowPolicyClassifies : Prop :=
  ∀ (c : CfgRegs) (lo hi : Duration),
    let near (d t tol : Duration) : Prop :=
      (t.toNat : Int) - tol.toNat ≤ d.toNat ∧ (d.toNat : Int) ≤ t.toNat + tol.toNat
    let fits (tLo tHi tol : Duration) : Prop := near lo tLo tol ∧ (tHi = 0xFFFF#16 ∨ near hi tHi tol)
    (∀ tLo tHi tol : Duration, pulseMatches lo hi tLo tHi tol = true ↔ fits tLo tHi tol) ∧
    (ackWin c lo hi = true ↔ fits c.ackLow c.ackHigh c.ackTol) ∧
    (clsWin c lo hi = .bit0 ↔ fits c.bit0Low c.bit0High c.bitTol) ∧
    (clsWin c lo hi = .bit1 ↔ ¬ fits c.bit0Low c.bit0High c.bitTol ∧ fits c.bit1Low c.bit1High c.bitTol) ∧
    (clsWin c lo hi = .err ↔ ¬ fits c.bit0Low c.bit0High c.bitTol ∧ ¬ fits c.bit1Low c.bit1High c.bitTol)

/-- 40_pulse_classifier.md R106 to R108: under policy SUM, on the exact sum, the acknowledgement window is inclusive,
below the low breakpoint is an error, above the high one a 1, between a 0. -/
def Obligations.SumPolicyClassifies : Prop :=
  ∀ (c : CfgRegs) (lo hi : Duration),
    let sum := lo.toNat + hi.toNat
    (sum17 lo hi).toNat = sum ∧
    (ackSum c lo hi = true ↔ c.sumAckMin.toNat ≤ sum ∧ sum ≤ c.sumAckMax.toNat) ∧
    (clsSum c lo hi = .err ↔ sum < c.sumBitLo.toNat) ∧
    (clsSum c lo hi = .bit1 ↔ c.sumBitLo.toNat ≤ sum ∧ c.sumBitHi.toNat < sum) ∧
    (clsSum c lo hi = .bit0 ↔ c.sumBitLo.toNat ≤ sum ∧ sum ≤ c.sumBitHi.toNat)

/-- 40_pulse_classifier.md R109: the policy bit selects the classifier, on normalised durations; under SUM the targets and
tolerances of policy WINDOW are ignored, under WINDOW the sum fields; and R110: the length, hold and timeout fields have
no influence. -/
def Obligations.PolicySelectsTheClassifier : Prop :=
  ∀ (c : CfgRegs) (lo hi : Duration),
    classifyAck c lo hi =
      (if c.policy.code = 0#1 then ackWin c (norm c lo) (norm c hi) else ackSum c (norm c lo) (norm c hi)) ∧
    classifyBit c lo hi =
      (if c.policy.code = 0#1 then clsWin c (norm c lo) (norm c hi) else clsSum c (norm c lo) (norm c hi)) ∧
    (∀ (lmin lmax h : BitVec 8) (ct : BitVec 4),
      let c' := { c with lenMin := lmin, lenMax := lmax, holdMs := h, captoMs := ct }
      classifyAck c' lo hi = classifyAck c lo hi ∧ classifyBit c' lo hi = classifyBit c lo hi) ∧
    (c.policy = .sum → ∀ al ah at' l0 h0 l1 h1 bt : Duration,
      let c' := { c with
        ackLow := al, ackHigh := ah, ackTol := at', bit0Low := l0, bit0High := h0, bit1Low := l1, bit1High := h1,
        bitTol := bt }
      classifyAck c' lo hi = classifyAck c lo hi ∧ classifyBit c' lo hi = classifyBit c lo hi) ∧
    (c.policy = .window → ∀ amin amax blo bhi : Duration,
      let c' := { c with sumAckMin := amin, sumAckMax := amax, sumBitLo := blo, sumBitHi := bhi }
      classifyAck c' lo hi = classifyAck c lo hi ∧ classifyBit c' lo hi = classifyBit c lo hi)

/-- At the reset configuration every data sample but (0, 0) fails to classify, and a frame that passes the length and
acknowledgement checks ends in `BIT_DECODE_ERROR` unless its forty data samples are all (0, 0), when it ends in `OK`
(70_reset_and_hazards.md R264, whose derived conclusion has no such exception: log 10). -/
def Obligations.UnprogrammedBlockClassifiesOnlyZero : Prop :=
  (∀ lo hi : Duration,
    classifyBit State.reset.blk.cfg lo hi = if lo = 0#16 ∧ hi = 0#16 then .bit0 else .err) ∧
  ∀ (lo hi : Duration) (rest : List (Duration × Duration)),
    40 ≤ rest.length → rest.length ≤ 41 → classifyAck State.reset.blk.cfg lo hi = true →
    decodeFrame State.reset.blk.cfg ((lo, hi) :: rest) =
      if ∀ p ∈ rest.take 40, p = (0#16, 0#16) then (.ok, 0#40) else (.bitDecodeError, 0#40)

/-- 41_frame_decoder.md R133: of 40 data samples that all classify, sample `i` (1 to 40) ends at `acc[40 - i]`, which is
bit `7 - ((i-1) mod 8)` of byte `(i-1) div 8`. -/
def Obligations.DataBitsAreMostSignificantFirst : Prop :=
  ∀ (c : CfgRegs) (samples : List (Duration × Duration)) (a : Bytes5), samples.length = 40 →
    decodeBits c samples 0#40 = some a →
    ∀ (i : Nat) (lo hi : Duration), 1 ≤ i → samples[i - 1]? = some (lo, hi) →
      a.getLsbD (40 - i) = decide (classifyBit c lo hi = .bit1) ∧
      (payloadByte a ((i - 1) / 8)).getLsbD (7 - (i - 1) % 8) = decide (classifyBit c lo hi = .bit1)

/-- 41_frame_decoder.md R138: the checksum is the exact sum of the four data bytes mod 256. -/
def Obligations.ChecksumIsTheSumOfTheDataBytes : Prop :=
  ∀ a : Bytes5,
    let byte (k : Nat) : Nat := a.toNat / 2 ^ (32 - 8 * k) % 256
    (chk a).toNat = (byte 0 + byte 1 + byte 2 + byte 3) % 256 ∧
    (chkPass a = true ↔ byte 4 = (byte 0 + byte 1 + byte 2 + byte 3) % 256)

/-- 41_frame_decoder.md R139: from an accepted `READ`, whatever the inbox presents in between and with whatever gaps, when
a `BUF_END` is accepted with no further `READ` accepted before it, the status and payload reported three cycles later
are those the reference function of R130 gives for the `SAMPLE`s accepted since, whatever their number. -/
def Obligations.StreamingDecoderEqualsTheReference : Prop :=
  ∀ (s s' t : State) (k : Nat),
    s.noReset → s.blk.cfg.Legal → acceptedEvent s = some .read → step s = .next s' →
    run k s' = .next t → readsAccepted k s' = 0 → acceptedEvent t = some .bufEnd →
    ∃ u, run 3 t = .next u ∧
      (u.blk.pend, u.blk.payload) = decodeFrame s.blk.cfg (samplesAccepted k s') ∧
      u.blk.resultCode = u.blk.pend ∧ u.blk.avail = true ∧ u.blk.fsm = .idle ∧ u.blk.line = .driveHigh ∧
      u.out.done = true ∧ u.out.doneCode = u.blk.pend.code ∧ u.out.donePayload = u.blk.payload ∧
      u.blk.cfg = s.blk.cfg

/-- A whole buffer, presented back to back in one read cycle, runs to its report in `n + 6` cycles, with one `done` strobe,
in the last, of what the reference function gives (41_frame_decoder.md R139, 70_reset_and_hazards.md R274). What is
scheduled after it is untouched but for the empty cycles that passed in `DECODING` and `DONE` (log 1). -/
def Obligations.BackToBackReadCycleReportsOnce : Prop :=
  ∀ (s : State) (buf : List (Duration × Duration)) (rest : List (Option EvWord)),
    s.noReset → s.blk.fsm = .idle → s.blk.cfg.Legal → s.inbox = readCycle buf ++ rest →
    ∃ t, run (buf.length + 6) s = .next t ∧
      (t.blk.pend, t.blk.payload) = decodeFrame s.blk.cfg buf ∧
      t.blk.resultCode = t.blk.pend ∧ t.blk.avail = true ∧ t.blk.fsm = .idle ∧ t.blk.line = .driveHigh ∧
      t.out.done = true ∧ t.out.doneCode = (decodeFrame s.blk.cfg buf).1.code ∧
      t.out.donePayload = (decodeFrame s.blk.cfg buf).2 ∧
      t.blk.cfg = s.blk.cfg ∧ t.inbox = heldInbox (heldInbox rest) ∧ doneStrobes (buf.length + 6) s = 1

/-- 70_reset_and_hazards.md R274: the states of a read cycle delivered back to back: `LISTENING` starts the capture in
cycle 2, `BUF_END` is consumed in cycle `3 + n`, `DECODING` is cycle `4 + n` and releases the buffer, `DONE` is cycle
`5 + n` and reports. -/
def Obligations.ReadCycleTiming : Prop :=
  ∀ (s : State) (buf : List (Duration × Duration)) (rest : List (Option EvWord)),
    s.noReset → s.blk.fsm = .idle → s.inbox = readCycle buf ++ rest →
    (∃ t u, run 2 s = .next t ∧ t.blk.fsm = .listening ∧ step t = .next u ∧ u.out.capStart = true ∧
      u.blk.fsm = .awaiting) ∧
    (∃ t u, run (3 + buf.length) s = .next t ∧ t.blk.fsm = .awaiting ∧ acceptedEvent t = some .bufEnd ∧
      step t = .next u ∧ u.blk.fsm = .decoding) ∧
    (∃ t u, run (4 + buf.length) s = .next t ∧ t.blk.fsm = .decoding ∧ step t = .next u ∧ u.out.capRelease = true) ∧
    (∃ t u, run (5 + buf.length) s = .next t ∧ t.blk.fsm = .done ∧ step t = .next u ∧ u.out.done = true ∧
      u.blk.fsm = .idle ∧ u.inbox = heldInbox (heldInbox rest))

/-- 42_sequencer.md R173: over any reset-free run from any state, the accepted `READ`s plus the cycle in progress at its
start are the `done` strobes plus the cycle in progress at its end. So each accepted `READ` has at most one strobe and
no strobe is without its `READ`. -/
def Obligations.OneDoneStrobePerAcceptedRead : Prop :=
  ∀ (k : Nat) (s t : State), s.noReset → run k s = .next t →
    readsAccepted k s + inProgress s = doneStrobes k s + inProgress t

/-- 60_exceptions.md R239: the reported code and payload are what the result registers hold in any later cycle before the
next accepted `READ`. -/
def Obligations.ReportedResultStaysReadable : Prop :=
  ∀ (s t u : State) (k : Nat), s.noReset → s.blk.fsm = .done → step s = .next t → readsAccepted k t = 0 →
    run k t = .next u →
    u.blk.resultCode.code = t.out.doneCode ∧ u.blk.payload = t.out.donePayload ∧ u.blk.avail = true

/-- 42_sequencer.md R171, R176: a presented event is judged after at most two transient cycles. -/
def Obligations.AtMostTwoTransientCycles : Prop :=
  ∀ (s : State) (ev : EvWord) (rest : List (Option EvWord)), s.noReset → s.inbox = some ev :: rest →
    ∃ k t, k ≤ 2 ∧ run k s = .next t ∧ t.blk.fsm.accepting = true ∧ t.inbox = s.inbox ∧
      (s.blk.fsm = .listening → k = 1) ∧ (s.blk.fsm = .decoding → k = 2)

/-! ### Environment, instances, assembler -/

/-- 60_exceptions.md R235: where the timer and the capture subsystem send only what their duties allow, no event of
theirs is ever rejected, and what is outstanding stays what the sequencer waits for. A host's event may be. -/
def Obligations.DutifulTimerAndCaptureAreNeverRejected : Prop :=
  ∀ (d : Duties) (s t : State), d.Matches s.blk → s.pinsNow.rst = false →
    (∀ i, consumedEvent s = some i → d.allow i = true) → step s = .next t →
    (d.after t.out (consumedEvent s)).Matches t.blk ∧
    (s.blk.reject = false → t.blk.reject = true → ∃ i, consumedEvent s = some i ∧ fromHost i = true)

/-- 42_sequencer.md R177, 60_exceptions.md R240: instances share nothing: in a system of any number of them each takes
the step it would take alone. -/
def Obligations.InstancesAreIndependent : Prop :=
  ∀ m : System, ∃ m' : System, m.step = .next m' ∧ m'.insts.length = m.insts.length ∧
    ∀ (k : Nat) (s : State), m.insts[k]? = some s → ∃ t, m'.insts[k]? = some t ∧ step s = .next t

/-- 30_encoding.md R88: the assembler never emits an illegal word, refuses a `cfg` to an index above 9 and a value that
does not fit its field, and gives every other line its word. -/
def Obligations.AssemblerEmitsOnlyLegalWords : Prop :=
  (∀ (ls : List AsmLine) (ws : List (Option EvWord)) (ev : EvWord), assemble ls = some ws → some ev ∈ ws →
    legal ev = true) ∧
  (∀ reg value : Nat, assembleLine (.cfg reg value) =
    if reg ≤ 9 ∧ value < 2 ^ 32 then some [some (BitVec.ofNat 48 (2 * 2 ^ 44 + reg * 2 ^ 40 + value))] else none) ∧
  (∀ low high : Nat, assembleLine (.sample low high) =
    if low < 2 ^ 16 ∧ high < 2 ^ 16 then some [some (BitVec.ofNat 48 (5 * 2 ^ 44 + high * 2 ^ 16 + low))] else none) ∧
  (∀ m : Nat, assembleLine (.clrflags m) =
    if m < 4 then some [some (BitVec.ofNat 48 (3 * 2 ^ 44 + m))] else none) ∧
  assembleLine .nop = some [some 0x000000000000#48] ∧ assembleLine .read = some [some 0x100000000000#48] ∧
  assembleLine .hold = some [some 0x400000000000#48] ∧ assembleLine .bufend = some [some 0x600000000000#48] ∧
  assembleLine .captimeout = some [some 0x700000000000#48] ∧
  ∀ n : Nat, assembleLine (.idle n) = some (List.replicate n none)

/-- 30_encoding.md R89: the words of the pseudo-instructions. -/
def Obligations.PseudoInstructionsExpandAsListed : Prop :=
  assembleLine .ack = some [some 0x500000500050#48] ∧
  assembleLine .bit0 = some [some 0x5000001A0032#48] ∧
  assembleLine .bit1 = some [some 0x500000460032#48] ∧
  assembleLine .release = some [some 0x500000000032#48] ∧
  assembleLine .cfgref =
    some [some 0x2300001A0032#48, some 0x240000460032#48, some 0x25000000000A#48, some 0x27000064003C#48] ∧
  assembleLine .cfgsum = some [some 0x200000000101#48] ∧
  assembleLine .cfgwin = some [some 0x200000000100#48] ∧
  (∀ b : Nat, b < 256 → ∃ ws, assembleLine (.byte b) = some ws ∧ ws.length = 8 ∧
    ∀ k : Nat, k < 8 →
      ws[k]? = some (some (if b.testBit (7 - k) then 0x500000460032#48 else 0x5000001A0032#48))) ∧
  (∀ b0 b1 b2 b3 b4 : Nat, b0 < 256 → b1 < 256 → b2 < 256 → b3 < 256 → b4 < 256 →
    ∃ w0 w1 w2 w3 w4 vs : List (Option EvWord),
      assembleLine (.byte b0) = some w0 ∧ assembleLine (.byte b1) = some w1 ∧ assembleLine (.byte b2) = some w2 ∧
      assembleLine (.byte b3) = some w3 ∧ assembleLine (.byte b4) = some w4 ∧
      vs = some 0x500000500050#48 :: (w0 ++ w1 ++ w2 ++ w3 ++ w4) ∧ vs.length = 41 ∧
      assembleLine (.frame41 b0 b1 b2 b3 b4) = some vs ∧
      assembleLine (.frame b0 b1 b2 b3 b4) = some (vs ++ [some 0x500000000032#48]))
end

