-- ==== Sys2Proof/Laws/State.lean ====
section
/-! SUPPORT. One lemma per part of State per operation, so that no later proof unfolds a record update. -/

namespace Sys2Proof.Machine

@[simp] theorem beginCycle_blk (s : State) : (beginCycle s).blk = s.blk := rfl
@[simp] theorem beginCycle_pins (s : State) : (beginCycle s).pins = s.pins.tail := rfl
@[simp] theorem beginCycle_inbox (s : State) : (beginCycle s).inbox = s.inbox := rfl
@[simp] theorem beginCycle_out (s : State) : (beginCycle s).out = idleOutputs s.blk s.pinsNow := rfl

@[simp] theorem consume_blk (s : State) : (consume s).blk = s.blk := rfl
@[simp] theorem consume_pins (s : State) : (consume s).pins = s.pins := rfl
@[simp] theorem consume_inbox (s : State) : (consume s).inbox = s.inbox.tail := rfl
@[simp] theorem consume_out (s : State) : (consume s).out = { s.out with consumed := true } := rfl

@[simp] theorem flagReject_blk (s : State) : (flagReject s).blk = { s.blk with reject := true } := rfl
@[simp] theorem flagReject_pins (s : State) : (flagReject s).pins = s.pins := rfl
@[simp] theorem flagReject_inbox (s : State) : (flagReject s).inbox = s.inbox := rfl
@[simp] theorem flagReject_out (s : State) : (flagReject s).out = s.out := rfl

@[simp] theorem flagIllegal_blk (s : State) : (flagIllegal s).blk = { s.blk with illegal := true } := rfl
@[simp] theorem flagIllegal_pins (s : State) : (flagIllegal s).pins = s.pins := rfl
@[simp] theorem flagIllegal_inbox (s : State) : (flagIllegal s).inbox = s.inbox := rfl
@[simp] theorem flagIllegal_out (s : State) : (flagIllegal s).out = s.out := rfl

@[simp] theorem enterDone_blk (st : Status) (s : State) :
    (enterDone st s).blk = { s.blk with pend := st, line := .driveHigh, fsm := .done } := rfl
@[simp] theorem enterDone_pins (st : Status) (s : State) : (enterDone st s).pins = s.pins := rfl
@[simp] theorem enterDone_inbox (st : Status) (s : State) : (enterDone st s).inbox = s.inbox := rfl
@[simp] theorem enterDone_out (st : Status) (s : State) : (enterDone st s).out = s.out := rfl

@[simp] theorem commitDone_blk (s : State) :
    (commitDone s).blk = { s.blk with
      resultCode := s.blk.pend, payload := committedPayload s.blk.pend s.blk.acc, avail := true, fsm := .idle } := rfl
@[simp] theorem commitDone_pins (s : State) : (commitDone s).pins = s.pins := rfl
@[simp] theorem commitDone_inbox (s : State) : (commitDone s).inbox = s.inbox := rfl
@[simp] theorem commitDone_out (s : State) :
    (commitDone s).out = { s.out with
      done := true, doneCode := s.blk.pend.code, donePayload := committedPayload s.blk.pend s.blk.acc } := rfl

@[simp] theorem startCapture_blk (s : State) : (startCapture s).blk = { s.blk with fsm := .awaiting } := rfl
@[simp] theorem startCapture_pins (s : State) : (startCapture s).pins = s.pins := rfl
@[simp] theorem startCapture_inbox (s : State) : (startCapture s).inbox = s.inbox := rfl
@[simp] theorem startCapture_out (s : State) :
    (startCapture s).out = { s.out with capStart := true, capTimeoutMs := s.blk.cfg.captoMs } := rfl

@[simp] theorem resolveFrame_blk (s : State) :
    (resolveFrame s).blk = { s.blk with pend := frameStatus s.blk, line := .driveHigh, fsm := .done } := rfl
@[simp] theorem resolveFrame_pins (s : State) : (resolveFrame s).pins = s.pins := rfl
@[simp] theorem resolveFrame_inbox (s : State) : (resolveFrame s).inbox = s.inbox := rfl
@[simp] theorem resolveFrame_out (s : State) : (resolveFrame s).out = { s.out with capRelease := true } := rfl

@[simp] theorem resetCycle_blk (s : State) : (resetCycle s).blk = Block.reset := rfl
@[simp] theorem resetCycle_pins (s : State) : (resetCycle s).pins = s.pins := rfl
@[simp] theorem resetCycle_inbox (s : State) : (resetCycle s).inbox = s.inbox := rfl
@[simp] theorem resetCycle_out (s : State) : (resetCycle s).out = s.out := rfl

@[simp] theorem readEffect_blk (s : State) :
    (readEffect s).blk = { s.blk with
      fsm := .starting, line := .driveLow, cnt := 0#8, ackOk := false, bitErr := false, acc := 0#40, pend := .none,
      resultCode := .none, payload := 0#40, avail := false } := rfl
@[simp] theorem readEffect_pins (s : State) : (readEffect s).pins = s.pins := rfl
@[simp] theorem readEffect_inbox (s : State) : (readEffect s).inbox = s.inbox := rfl
@[simp] theorem readEffect_out (s : State) :
    (readEffect s).out = { s.out with armHold := true, armHoldMs := s.blk.cfg.holdMs } := rfl

@[simp] theorem holdElapsedEffect_blk (s : State) :
    (holdElapsedEffect s).blk = { s.blk with line := .input, fsm := .listening } := rfl
@[simp] theorem holdElapsedEffect_pins (s : State) : (holdElapsedEffect s).pins = s.pins := rfl
@[simp] theorem holdElapsedEffect_inbox (s : State) : (holdElapsedEffect s).inbox = s.inbox := rfl
@[simp] theorem holdElapsedEffect_out (s : State) : (holdElapsedEffect s).out = s.out := rfl

@[simp] theorem sampleEffect_blk (low high : Duration) (s : State) :
    (sampleEffect low high s).blk =
      { foldSample low high s.blk with cnt := countUp s.blk.cnt, fsm := .awaiting } := rfl
@[simp] theorem sampleEffect_pins (low high : Duration) (s : State) : (sampleEffect low high s).pins = s.pins := rfl
@[simp] theorem sampleEffect_inbox (low high : Duration) (s : State) : (sampleEffect low high s).inbox = s.inbox := rfl
@[simp] theorem sampleEffect_out (low high : Duration) (s : State) : (sampleEffect low high s).out = s.out := rfl

@[simp] theorem bufEndEffect_blk (s : State) : (bufEndEffect s).blk = { s.blk with fsm := .decoding } := rfl
@[simp] theorem bufEndEffect_pins (s : State) : (bufEndEffect s).pins = s.pins := rfl
@[simp] theorem bufEndEffect_inbox (s : State) : (bufEndEffect s).inbox = s.inbox := rfl
@[simp] theorem bufEndEffect_out (s : State) : (bufEndEffect s).out = s.out := rfl

@[simp] theorem cfgWriteEffect_blk (idx : RegIdx) (data : RegWord) (s : State) :
    (cfgWriteEffect idx data s).blk = { s.blk with cfg := writeCfg s.blk.cfg idx data } := rfl
@[simp] theorem cfgWriteEffect_pins (idx : RegIdx) (data : RegWord) (s : State) :
    (cfgWriteEffect idx data s).pins = s.pins := rfl
@[simp] theorem cfgWriteEffect_inbox (idx : RegIdx) (data : RegWord) (s : State) :
    (cfgWriteEffect idx data s).inbox = s.inbox := rfl
@[simp] theorem cfgWriteEffect_out (idx : RegIdx) (data : RegWord) (s : State) :
    (cfgWriteEffect idx data s).out = s.out := rfl

@[simp] theorem clrFlagsEffect_blk (mask : BitVec 2) (s : State) :
    (clrFlagsEffect mask s).blk = { s.blk with
      reject := clearIf (mask.getLsbD 0) s.blk.reject, illegal := clearIf (mask.getLsbD 1) s.blk.illegal } := rfl
@[simp] theorem clrFlagsEffect_pins (mask : BitVec 2) (s : State) : (clrFlagsEffect mask s).pins = s.pins := rfl
@[simp] theorem clrFlagsEffect_inbox (mask : BitVec 2) (s : State) : (clrFlagsEffect mask s).inbox = s.inbox := rfl
@[simp] theorem clrFlagsEffect_out (mask : BitVec 2) (s : State) : (clrFlagsEffect mask s).out = s.out := rfl

/-- Two states are equal when their four parts are. -/
theorem State.eq_of_parts {s t : State} (hb : s.blk = t.blk) (hp : s.pins = t.pins) (hi : s.inbox = t.inbox)
    (ho : s.out = t.out) : s = t := by
  cases s; cases t; simp_all

end Sys2Proof.Machine
end

