-- ==== Sys2Proof/Laws/Cycle.lean ====
section
/-! SUPPORT. What one cycle can do, said once: which of the five cycles it is, and what presenting an event or an illegal
word comes to in each. Callers cite these instead of unfolding `cycle`. -/

namespace Sys2Proof.Machine

variable {body effect : State → State} {s : State} {i : Instr}

theorem cycle_reset (h : s.pinsNow.rst = true) : cycle body s = resetCycle (beginCycle s) := by
  simp [cycle, h]

theorem cycle_accepting (h : s.pinsNow.rst = false) (ha : s.blk.fsm.accepting = true) :
    cycle body s = body (beginCycle s) := by
  cases hf : s.blk.fsm <;> simp [cycle, h, hf, Fsm.accepting] at ha ⊢

theorem cycle_listening (h : s.pinsNow.rst = false) (hf : s.blk.fsm = .listening) :
    cycle body s = startCapture (beginCycle s) := by
  simp [cycle, h, hf]

theorem cycle_decoding (h : s.pinsNow.rst = false) (hf : s.blk.fsm = .decoding) :
    cycle body s = resolveFrame (beginCycle s) := by
  simp [cycle, h, hf]

theorem cycle_done (h : s.pinsNow.rst = false) (hf : s.blk.fsm = .done) :
    cycle body s = commitDone (beginCycle s) := by
  simp [cycle, h, hf]

/-- Everything a cycle can be. -/
theorem cycle_cases (body : State → State) (s : State) :
    (s.pinsNow.rst = true ∧ cycle body s = resetCycle (beginCycle s)) ∨
    (s.pinsNow.rst = false ∧ s.blk.fsm = .listening ∧ cycle body s = startCapture (beginCycle s)) ∨
    (s.pinsNow.rst = false ∧ s.blk.fsm = .decoding ∧ cycle body s = resolveFrame (beginCycle s)) ∨
    (s.pinsNow.rst = false ∧ s.blk.fsm = .done ∧ cycle body s = commitDone (beginCycle s)) ∨
    (s.pinsNow.rst = false ∧ s.blk.fsm.accepting = true ∧ cycle body s = body (beginCycle s)) := by
  cases hr : s.pinsNow.rst
  · cases hf : s.blk.fsm <;> simp [cycle, hr, hf, Fsm.accepting]
  · simp [cycle_reset hr]

/-- Outside the accepting states, and in reset, a cycle does not look at the inbox. -/
theorem cycle_body_irrelevant (body' : State → State) (h : s.pinsNow.rst = true ∨ s.blk.fsm.accepting = false) :
    cycle body s = cycle body' s := by
  rcases h with h | h
  · simp [cycle, h]
  · cases hf : s.blk.fsm <;> simp [cycle, hf, Fsm.accepting] at h ⊢

/-- An event is accepted only in an accepting state (00_scope.md R13). -/
theorem accepting_of_accepts {f : Fsm} (h : accepts i f = true) : f.accepting = true := by
  cases i <;> cases f <;> first | rfl | (revert h; simp [accepts, Fsm.accepting])

theorem presentEvent_accepted (h : s.pinsNow.rst = false) (ha : accepts i s.blk.fsm = true) :
    presentEvent i effect s = effect (consume (beginCycle s)) := by
  simp [presentEvent, cycle_accepting h (accepting_of_accepts ha), ha]

theorem presentEvent_rejected (h : s.pinsNow.rst = false) (hf : s.blk.fsm.accepting = true)
    (ha : accepts i s.blk.fsm = false) : presentEvent i effect s = flagReject (consume (beginCycle s)) := by
  simp [presentEvent, cycle_accepting h hf, ha]

theorem presentIllegal_consumed (h : s.pinsNow.rst = false) (hf : s.blk.fsm.accepting = true) :
    presentIllegal s = flagIllegal (consume (beginCycle s)) := by
  simp [presentIllegal, cycle_accepting h hf]

/-- The effect of an accepted event, by event: what `exec` puts into the cycle. -/
def effectOf : Instr → State → State
  | .nop => id
  | .read => readEffect
  | .cfgWrite idx data => cfgWriteEffect idx data
  | .clrFlags mask => clrFlagsEffect mask
  | .holdElapsed => holdElapsedEffect
  | .sample low high => sampleEffect low high
  | .bufEnd => bufEndEffect
  | .capTimeout => enterDone .timeout

/-- Every meaning is one presented event's cycle. -/
theorem exec_wf (hw : i.wf = true) : exec i s = .next (presentEvent i (effectOf i) s) := by
  cases i <;> simp_all [exec, execNop, execRead, execCfgWrite, execClrFlags, execHoldElapsed, execSample, execBufEnd,
    execCapTimeout, effectOf]

/-- An event that has no encoding is an illegal word (43_host_interface.md R192). -/
theorem exec_not_wf (hw : i.wf = false) : exec i s = .next (presentIllegal s) := by
  cases i <;> simp_all [exec, execCfgWrite, Instr.wf]

end Sys2Proof.Machine
end

