-- ==== Sys2Proof/Laws/Decode.lean ====
section
/-! SUPPORT. The fields of a packed event word are the fields it was packed from (30_encoding.md R81). -/

namespace Sys2Proof

variable (op : BitVec 4) (idx : RegIdx) (data : RegWord)

theorem packWord_getLsbD (k : Nat) :
    (packWord op idx data).getLsbD k =
      if k < 32 then data.getLsbD k
      else if k < 40 then false
      else if k < 44 then idx.getLsbD (k - 40)
      else op.getLsbD (k - 44) := by
  unfold packWord
  simp only [BitVec.getLsbD_append, BitVec.getLsbD_zero]
  by_cases h1 : k < 32
  · simp [h1]
  by_cases h2 : k < 40
  · simp [h1, h2, show k - 32 < 8 by omega]
  by_cases h3 : k < 44
  · simp [h1, h2, h3, show ¬ k - 32 < 8 by omega, show k - 32 - 8 = k - 40 by omega, show k - 40 < 4 by omega]
  · simp [h1, h2, h3, show ¬ k - 32 < 8 by omega, show ¬ k - 32 - 8 < 4 by omega,
      show k - 32 - 8 - 4 = k - 44 by omega]

/-- A packed word as a number (30_encoding.md R81). -/
theorem packWord_toNat :
    (packWord op idx data).toNat = op.toNat * 2 ^ 44 + idx.toNat * 2 ^ 40 + data.toNat := by
  have h1 := idx.isLt
  have h2 := data.isLt
  unfold packWord
  rw [BitVec.toNat_append, BitVec.toNat_append, BitVec.toNat_append, ← Nat.shiftLeft_add_eq_or_of_lt h2,
    ← Nat.shiftLeft_add_eq_or_of_lt (by decide), ← Nat.shiftLeft_add_eq_or_of_lt h1]
  simp only [Nat.shiftLeft_eq]
  simp
  omega

@[simp] theorem opField_packWord : opField (packWord op idx data) = op := by
  apply BitVec.eq_of_getLsbD_eq
  intro k hk
  simp [opField, packWord_getLsbD, hk, show ¬ 44 + k < 32 by omega, show ¬ 44 + k < 40 by omega]

@[simp] theorem idxField_packWord : idxField (packWord op idx data) = idx := by
  apply BitVec.eq_of_getLsbD_eq
  intro k hk
  simp [idxField, packWord_getLsbD, hk, show ¬ 40 + k < 32 by omega, show 40 + k < 44 by omega]

@[simp] theorem zeroField_packWord : zeroField (packWord op idx data) = 0#8 := by
  apply BitVec.eq_of_getLsbD_eq
  intro k hk
  simp [zeroField, packWord_getLsbD, show ¬ 32 + k < 32 by omega, show 32 + k < 40 by omega]

@[simp] theorem dataField_packWord : dataField (packWord op idx data) = data := by
  apply BitVec.eq_of_getLsbD_eq
  intro k hk
  simp [dataField, packWord_getLsbD, hk]

end Sys2Proof
end

