-- ==== Sys2Proof/Laws/Operands.lean ====
section
/-! SUPPORT. What each operation on operands comes to in numbers, and what it leaves alone; callers cite these instead of
unfolding bit-field extractions. -/

namespace Sys2Proof.Machine

/-- A payload byte is a base-256 digit (10_state.md R34). -/
theorem payloadByte_toNat (v : Bytes5) (k : Nat) : (payloadByte v k).toNat = v.toNat / 2 ^ (32 - 8 * k) % 256 := by
  simp [payloadByte, BitVec.extractLsb'_toNat, Nat.shiftRight_eq_div_pow]

/-- Counting saturates at 255 (10_state.md R39). -/
theorem countUp_eq (cnt : BitVec 8) : countUp cnt = BitVec.ofNat 8 (min (cnt.toNat + 1) 255) := by
  revert cnt; decide

theorem countUp_toNat (cnt : BitVec 8) : (countUp cnt).toNat = min (cnt.toNat + 1) 255 := by
  rw [countUp_eq]; simp

theorem flagBit_toNat (b : Bool) : (flagBit b).toNat = b.toNat := by cases b <;> rfl

/-- Shifting a bit in doubles the accumulator and adds the bit (41_frame_decoder.md R131). -/
theorem shiftIn_eq (a : Bytes5) (b : Bool) : shiftIn a b = BitVec.ofNat 40 (2 * a.toNat + b.toNat) := by
  apply BitVec.eq_of_toNat_eq
  have hl : b.toNat < 2 ^ 1 := by cases b <;> decide
  rw [shiftIn, BitVec.toNat_append, flagBit_toNat, ← Nat.shiftLeft_add_eq_or_of_lt hl]
  simp [BitVec.extractLsb'_toNat, Nat.shiftLeft_eq]
  omega

/-- Shifting a bit in, bit by bit (41_frame_decoder.md R133). -/
theorem shiftIn_getLsbD (a : Bytes5) (b : Bool) (k : Nat) :
    (shiftIn a b).getLsbD k = if k = 0 then b else (decide (k < 40) && a.getLsbD (k - 1)) := by
  unfold shiftIn flagBit
  rw [BitVec.getLsbD_append]
  by_cases h : k = 0
  · subst h; simp
  · simp [h, show ¬ k < 1 by omega, show (k - 1 < 39) = (k < 40) by simp; omega]

/-- Widening keeps the number (00_scope.md R9). -/
theorem zext17_toNat (v : Duration) : (zext17 v).toNat = v.toNat := by
  have := v.isLt
  simp [zext17]; omega

/-- A concatenation as a number (00_scope.md R9). -/
theorem append_toNat {m n : Nat} (a : BitVec m) (b : BitVec n) : (a ++ b).toNat = b.toNat + 2 ^ n * a.toNat := by
  rw [BitVec.toNat_append, ← Nat.shiftLeft_add_eq_or_of_lt b.isLt, Nat.shiftLeft_eq, Nat.mul_comm, Nat.add_comm]

/-- Widening to a register keeps the number (00_scope.md R9). -/
theorem zext32_toNat {n : Nat} (a : BitVec n) (h : n ≤ 32) : (a.setWidth 32).toNat = a.toNat := by
  rw [BitVec.toNat_setWidth, Nat.mod_eq_of_lt (Nat.lt_of_lt_of_le a.isLt (Nat.pow_le_pow_right (by decide) h))]

/-- A sample touches nothing but `ack_ok`, `bit_err` and `acc` (41_frame_decoder.md R131). -/
theorem foldSample_frame (lo hi : Duration) (b : Block) :
    foldSample lo hi b =
      { b with
        ackOk := (foldSample lo hi b).ackOk
        bitErr := (foldSample lo hi b).bitErr
        acc := (foldSample lo hi b).acc } := by
  unfold foldSample takeBit
  repeat' split
  all_goals rfl

theorem foldSample_cfg (lo hi : Duration) (b : Block) : (foldSample lo hi b).cfg = b.cfg := by
  rw [foldSample_frame]

theorem legalTickMul_legal (v : BitVec 8) : Config.tickMulMin ≤ legalTickMul v := by revert v; decide

theorem lenClamp_legal (v : BitVec 8) : Config.lenFloor ≤ lenClamp v ∧ lenClamp v ≤ Config.lenCeil := by
  revert v; decide

theorem legalHoldMs_legal (v : BitVec 8) : Config.holdMsMin ≤ legalHoldMs v := by revert v; decide

theorem legalCaptoMs_legal (v : BitVec 4) :
    Config.captoMsMin ≤ legalCaptoMs v ∧ legalCaptoMs v ≤ Config.captoMsMax := by
  revert v; decide

/-- A register write keeps the clamped fields in range, whatever is written (43_host_interface.md R190). -/
theorem writeCfg_legal (c : CfgRegs) (idx : RegIdx) (d : RegWord) (h : c.Legal) : (writeCfg c idx d).Legal := by
  unfold CfgRegs.Legal at *
  unfold writeCfg
  split <;> simp_all [legalTickMul_legal, lenClamp_legal, legalHoldMs_legal, legalCaptoMs_legal]

/-- `DECODING` never resolves to `NONE` (41_frame_decoder.md R136). -/
theorem frameStatus_ne_none (b : Block) : frameStatus b ≠ .none := by
  unfold frameStatus
  repeat' split
  all_goals simp

end Sys2Proof.Machine
end

