-- ==== Sys2Proof/Laws/PerInstr.lean ====
section
/-! SUPPORT. A law of every event's encoding, one lemma a constructor: the encoding selects the event's own row of the
match and mask table (30_encoding.md R82). -/

namespace Sys2Proof.Laws.EncodeSelectsRow

open Sys2Proof

/-- The event's word selects a row of the table that has its mnemonic. -/
def Statement (i : Instr) : Prop := ∃ r ∈ opcodeRows, r.mnemonic = i.mnemonic ∧ r.selects (encode i) = true

/-- A word selects a row when its bits under the row's mask are the row's bits. -/
theorem selects_of_bits {r : OpcodeRow} {ev : EvWord}
    (h : ∀ k : Fin 48, (ev.getLsbD k && r.mask.getLsbD k) = r.val.getLsbD k) : r.selects ev = true := by
  have : ev &&& r.mask = r.val := by
    apply BitVec.eq_of_getLsbD_eq
    intro k hk
    simpa using h ⟨k, hk⟩
  simp [OpcodeRow.selects, this]

theorem nop : Statement .nop := ⟨⟨"NOP", 0x000000000000#48, 0xFFFFFFFFFFFF#48⟩, by decide, rfl, by decide⟩

theorem read : Statement .read := ⟨⟨"READ", 0x100000000000#48, 0xFFFFFFFFFFFF#48⟩, by decide, rfl, by decide⟩

theorem cfgWrite (idx : RegIdx) (data : RegWord) : Statement (.cfgWrite idx data) := by
  refine ⟨⟨"CFG_WRITE", 0x200000000000#48, 0xF0FF00000000#48⟩, by decide, rfl, selects_of_bits ?_⟩
  intro k
  simp only [encode, packWord_getLsbD]
  revert k
  generalize hd : (fun n => data.getLsbD n) = d
  generalize hi : (fun n => idx.getLsbD n) = x
  simp only [funext_iff] at hd hi
  simp only [hd, hi]
  intro k
  fin_cases k <;> simp

theorem clrFlags (mask : BitVec 2) : Statement (.clrFlags mask) := by
  refine ⟨⟨"CLR_FLAGS", 0x300000000000#48, 0xFFFFFFFFFFFC#48⟩, by decide, rfl, ?_⟩
  revert mask
  decide

theorem holdElapsed : Statement .holdElapsed :=
  ⟨⟨"HOLD_ELAPSED", 0x400000000000#48, 0xFFFFFFFFFFFF#48⟩, by decide, rfl, by decide⟩

theorem sample (low high : Duration) : Statement (.sample low high) := by
  refine ⟨⟨"SAMPLE", 0x500000000000#48, 0xFFFF00000000#48⟩, by decide, rfl, selects_of_bits ?_⟩
  intro k
  simp only [encode, packWord_getLsbD]
  fin_cases k <;> simp

theorem bufEnd : Statement .bufEnd := ⟨⟨"BUF_END", 0x600000000000#48, 0xFFFFFFFFFFFF#48⟩, by decide, rfl, by decide⟩

theorem capTimeout : Statement .capTimeout :=
  ⟨⟨"CAP_TIMEOUT", 0x700000000000#48, 0xFFFFFFFFFFFF#48⟩, by decide, rfl, by decide⟩

end Sys2Proof.Laws.EncodeSelectsRow
end

