-- ==== Sys2Proof/Laws/Step.lean ====
section
/-! SUPPORT. What one step can do, said once: `step_cases` lists every cycle, with the event it consumed and accepted.
The invariants and whole-machine rules follow from it without unfolding `step`. -/

namespace Sys2Proof.Machine

variable {s t : State} {i : Instr}

/-- A decoded event is well-formed. -/
theorem wf_of_decode {ev : EvWord} (h : decode ev = .event i) : i.wf = true := by
  unfold decode decodeBare at h
  revert h
  split <;> (try split_ifs) <;> rintro ⟨⟩ <;> simp_all [Instr.wf]

theorem wf_of_presented (h : presented s = .event i) : i.wf = true := by
  revert h
  unfold presented presentedWord
  split <;> try (intro h; cases h)
  rename_i ev _ _
  cases hd : decode ev with
  | event j => intro h; cases h; exact wf_of_decode hd
  | illegal w => intro h; cases h

/-- When something is presented, it stays in an inbox that is not consumed from. -/
theorem heldInbox_of_presented (h : presented s ≠ .nothing) : heldInbox s.inbox = s.inbox := by
  revert h
  unfold presented
  cases s.inbox with
  | nil => intro _; rfl
  | cons a l =>
    cases a with
    | none => intro h; exact absurd rfl h
    | some ev => intro _; rfl

/-- When nothing is presented, what is scheduled is over after the cycle. -/
theorem heldInbox_of_nothing (h : presented s = .nothing) : heldInbox s.inbox = s.inbox.tail := by
  revert h
  unfold presented presentedWord
  cases s.inbox with
  | nil => intro _; rfl
  | cons a l =>
    cases a with
    | none => intro _; rfl
    | some ev => cases hd : decode ev <;> simp [hd]

/-- The state with its inbox as a cycle that consumes nothing leaves it. -/
def held (s : State) : State := { s with inbox := heldInbox s.inbox }

/-- A step in reset or in a transient state is the cycle of that state, with the inbox held. -/
theorem step_held (h : s.pinsNow.rst = true ∨ s.blk.fsm.accepting = false) :
    step s = .next (cycle id (held s)) := by
  unfold step held
  cases hp : presented s with
  | nothing => simp [emptyInbox, heldInbox_of_nothing hp]
  | event i =>
    simp only [exec_wf (wf_of_presented hp), presentEvent, cycle_body_irrelevant id h,
      heldInbox_of_presented (s := s) (by simp [hp])]
  | illegal =>
    simp only [presentIllegal, cycle_body_irrelevant id h, heldInbox_of_presented (s := s) (by simp [hp])]

/-- One step, by cases. Each case gives the whole next state. -/
inductive StepCase (s t : State) : Prop where
  /-- `rst = 1` -/
  | reset (hr : s.pinsNow.rst = true) (ha : acceptedEvent s = none) (hc : consumedEvent s = none)
      (ht : t = afterHeld s Block.reset (idleOutputs s.blk s.pinsNow))
  | listening (hr : s.pinsNow.rst = false) (hf : s.blk.fsm = .listening) (ha : acceptedEvent s = none)
      (hc : consumedEvent s = none)
      (ht : t = afterHeld s { s.blk with fsm := .awaiting }
        { idleOutputs s.blk s.pinsNow with capStart := true, capTimeoutMs := s.blk.cfg.captoMs })
  | decoding (hr : s.pinsNow.rst = false) (hf : s.blk.fsm = .decoding) (ha : acceptedEvent s = none)
      (hc : consumedEvent s = none)
      (ht : t = afterHeld s { s.blk with pend := frameStatus s.blk, line := .driveHigh, fsm := .done }
        { idleOutputs s.blk s.pinsNow with capRelease := true })
  | done (hr : s.pinsNow.rst = false) (hf : s.blk.fsm = .done) (ha : acceptedEvent s = none)
      (hc : consumedEvent s = none)
      (ht : t = afterHeld s
        { s.blk with
          resultCode := s.blk.pend, payload := committedPayload s.blk.pend s.blk.acc, avail := true, fsm := .idle }
        { idleOutputs s.blk s.pinsNow with
          done := true, doneCode := s.blk.pend.code, donePayload := committedPayload s.blk.pend s.blk.acc })
  /-- an empty inbox in an accepting state -/
  | empty (hr : s.pinsNow.rst = false) (hf : s.blk.fsm.accepting = true) (hp : presented s = .nothing)
      (ha : acceptedEvent s = none) (hc : consumedEvent s = none)
      (ht : t = { afterConsumed s s.blk with out := idleOutputs s.blk s.pinsNow })
  /-- an illegal word, consumed -/
  | illegal (hr : s.pinsNow.rst = false) (hf : s.blk.fsm.accepting = true) (hp : presented s = .illegal)
      (ha : acceptedEvent s = none) (hc : consumedEvent s = none)
      (ht : t = afterConsumed s { s.blk with illegal := true })
  /-- a legal event the state does not take, consumed -/
  | rejected (i : Instr) (hr : s.pinsNow.rst = false) (hf : s.blk.fsm.accepting = true)
      (hp : presented s = .event i) (hn : accepts i s.blk.fsm = false) (ha : acceptedEvent s = none)
      (hc : consumedEvent s = some i) (ht : t = afterConsumed s { s.blk with reject := true })
  /-- an accepted event -/
  | accepted (i : Instr) (hr : s.pinsNow.rst = false) (hp : presented s = .event i)
      (hy : accepts i s.blk.fsm = true) (ha : acceptedEvent s = some i) (hc : consumedEvent s = some i)
      (ht : t = effectOf i (consume (beginCycle s)))

theorem consumedEvent_held (h : s.pinsNow.rst = true ∨ s.blk.fsm.accepting = false) : consumedEvent s = none := by
  rcases h with h | h <;> simp [consumedEvent, h]

theorem acceptedEvent_held (h : s.pinsNow.rst = true ∨ s.blk.fsm.accepting = false) : acceptedEvent s = none := by
  simp [acceptedEvent, consumedEvent_held h]

theorem consumedEvent_accepting (hr : s.pinsNow.rst = false) (hf : s.blk.fsm.accepting = true) :
    consumedEvent s = match presented s with
      | .event i => some i
      | .nothing => none
      | .illegal => none := by
  cases hp : presented s <;> simp [consumedEvent, hr, hf, hp]

/-- The one inversion lemma of the step. -/
theorem step_cases (h : step s = .next t) : StepCase s t := by
  cases hr : s.pinsNow.rst with
  | true =>
    rw [step_held (.inl hr), cycle_reset (s := held s) hr] at h
    cases h
    exact .reset hr (acceptedEvent_held (.inl hr)) (consumedEvent_held (.inl hr)) rfl
  | false =>
    cases ha : s.blk.fsm.accepting with
    | false =>
      rw [step_held (.inr ha)] at h
      have h1 := acceptedEvent_held (.inr ha)
      have h2 := consumedEvent_held (.inr ha)
      cases hf : s.blk.fsm <;> simp only [hf, Fsm.accepting] at ha <;> try (exact absurd ha (by decide))
      · rw [cycle_listening (s := held s) hr hf] at h
        cases h
        exact .listening hr hf h1 h2 rfl
      · rw [cycle_decoding (s := held s) hr hf] at h
        cases h
        exact .decoding hr hf h1 h2 rfl
      · rw [cycle_done (s := held s) hr hf] at h
        cases h
        exact .done hr hf h1 h2 rfl
    | true =>
      have hc := consumedEvent_accepting hr ha
      unfold step at h
      cases hp : presented s with
      | nothing =>
        rw [hp] at h hc
        simp only [emptyInbox] at h
        rw [cycle_accepting (s := { s with inbox := s.inbox.tail }) hr ha] at h
        cases h
        exact .empty hr ha hp (by simp [acceptedEvent, hc]) hc rfl
      | illegal =>
        rw [hp] at h hc
        simp only [presentIllegal_consumed hr ha] at h
        cases h
        exact .illegal hr ha hp (by simp [acceptedEvent, hc]) hc rfl
      | event i =>
        rw [hp] at h hc
        simp only [exec_wf (wf_of_presented hp)] at h
        cases hn : accepts i s.blk.fsm with
        | true =>
          rw [presentEvent_accepted hr hn] at h
          cases h
          exact .accepted i hr hp hn (by simp [acceptedEvent, hc, hn]) hc rfl
        | false =>
          rw [presentEvent_rejected hr ha hn] at h
          cases h
          exact .rejected i hr ha hp hn (by simp [acceptedEvent, hc, hn]) hc rfl

/-- A cycle's pins are used up. -/
theorem effectOf_pins (i : Instr) (s : State) : (effectOf i s).pins = s.pins := by
  cases i <;> rfl

theorem effectOf_inbox (i : Instr) (s : State) : (effectOf i s).inbox = s.inbox := by
  cases i <;> rfl

theorem step_pins (h : step s = .next t) : t.pins = s.pins.tail := by
  cases step_cases h with
  | accepted i _ _ _ _ _ ht => rw [ht, effectOf_pins]; rfl
  | _ => simp_all [afterHeld, afterConsumed]

/-- No reset later if none is scheduled. -/
theorem noReset_step (hn : s.noReset) (h : step s = .next t) : t.noReset := by
  intro p hp
  rw [step_pins h] at hp
  exact hn p (List.mem_of_mem_tail hp)

theorem rst_of_noReset (hn : s.noReset) : s.pinsNow.rst = false := by
  unfold State.pinsNow
  cases hp : s.pins with
  | nil => rfl
  | cons p ps => exact hn p (by simp [hp])

end Sys2Proof.Machine
end

