-- ==== Sys2Proof/Laws/Run.lean ====
section
/-! SUPPORT. Runs: one step at a time, and one run after another. -/

namespace Sys2Proof.Machine

variable {s t u : State}

theorem run_succ (h : step s = .next t) (k : Nat) : run (k + 1) s = run k t := by
  simp [run, h]

/-- A run of `m + n` cycles is a run of `m` and then one of `n`. -/
theorem run_add (m n : Nat) (h : run m s = .next t) : run (m + n) s = run n t := by
  induction m generalizing s with
  | zero => simp [run] at h; subst h; simp
  | succ m ih =>
    rw [show m + 1 + n = (m + n) + 1 by omega]
    cases hs : step s with
    | next u => rw [run_succ hs] at h ⊢; exact ih h
    | fault r => simp [run, hs] at h
    | refused r => simp [run, hs] at h

theorem doneStrobes_add (m n : Nat) (h : run m s = .next t) :
    doneStrobes (m + n) s = doneStrobes m s + doneStrobes n t := by
  induction m generalizing s with
  | zero => simp [run] at h; subst h; simp [doneStrobes]
  | succ m ih =>
    rw [show m + 1 + n = (m + n) + 1 by omega]
    cases hs : step s with
    | next u => rw [run_succ hs] at h; simp only [doneStrobes, hs, ih h, Nat.add_assoc]
    | fault r => simp [run, hs] at h
    | refused r => simp [run, hs] at h

theorem readsAccepted_add (m n : Nat) (h : run m s = .next t) :
    readsAccepted (m + n) s = readsAccepted m s + readsAccepted n t := by
  induction m generalizing s with
  | zero => simp [run] at h; subst h; simp [readsAccepted]
  | succ m ih =>
    rw [show m + 1 + n = (m + n) + 1 by omega]
    cases hs : step s with
    | next u => rw [run_succ hs] at h; simp only [readsAccepted, hs, ih h, Nat.add_assoc]
    | fault r => simp [run, hs] at h
    | refused r => simp [run, hs] at h

/-- No reset comes during a run if none is scheduled. -/
theorem noReset_run (m : Nat) (hn : s.noReset) (h : run m s = .next t) : t.noReset := by
  induction m generalizing s with
  | zero => simp [run] at h; subst h; exact hn
  | succ m ih =>
    cases hs : step s with
    | next u => rw [run_succ hs] at h; exact ih (noReset_step hn hs) h
    | fault r => simp [run, hs] at h
    | refused r => simp [run, hs] at h

end Sys2Proof.Machine
end

