-- ==== Sys2Proof/Tests/Slice0.lean ====
section
/-! SUPPORT. Tests: the well-formedness smoke, words written out from 30_encoding.md R81 and R82, vectors of
95_test_vectors.md, and for every obligation with hypotheses a state that meets them (`witness_…`). -/

namespace Sys2Proof.Tests

open Sys2Proof Sys2Proof.Machine

/-! ### Helpers -/

/-- The reference configuration (92_eei_decisions.md D35). -/
def refCfg : CfgRegs :=
  { CfgRegs.reset with
    bit0Low := 50#16, bit0High := 26#16, bit1Low := 50#16, bit1High := 70#16, bitTol := 10#16
    sumBitLo := 60#16, sumBitHi := 100#16 }

/-- A block in a state of the sequencer, the line as that state has it, `pend` and `cnt` as given. -/
def blkOf (f : Fsm) (l : Line) (p : Status) (cnt : BitVec 8) : Block :=
  { Block.reset with cfg := refCfg, fsm := f, line := l, pend := p, cnt := cnt }

def idleB : Block := blkOf .idle .driveHigh .none 0#8
def startingB : Block := blkOf .starting .driveLow .none 0#8
def listeningB : Block := blkOf .listening .input .none 0#8
def awaitingB (cnt : BitVec 8) : Block := blkOf .awaiting .input .none cnt

/-- `DECODING` after 42 samples of the frame of X1. -/
def decodingB : Block := { blkOf .decoding .input .none 42#8 with ackOk := true, acc := 0x32001A004C#40 }

/-- `DONE` with a status and an accumulator. -/
def doneB (p : Status) (acc : Bytes5) : Block := { blkOf .done .driveHigh p 42#8 with acc := acc }

/-- A machine with a block and an inbox, no pins scheduled. -/
def st (b : Block) (ib : List (Option EvWord)) : State := { State.reset with blk := b, inbox := ib }

/-- A machine in the reset state with a word in its inbox. -/
def boot (ev : EvWord) : State := st Block.reset [some ev]

/-- A part of the next state, where there is one. -/
def after {α : Type} (o : Host.Outcome State Fault Refusal) (f : State → α) : Option α :=
  match o with
  | .next t => some (f t)
  | .fault _ => none
  | .refused _ => none

/-- The samples of 40 data bits, the first byte first. -/
def dataSamples (bytes : List Nat) : List (Duration × Duration) :=
  bytes.flatMap fun b => ([7, 6, 5, 4, 3, 2, 1, 0].map fun k => (50#16, if b.testBit k then 70#16 else 26#16))

/-- The 42 samples of 95_test_vectors.md X1. -/
def frameX1 : List (Duration × Duration) :=
  (80#16, 80#16) :: dataSamples [0x32, 0x00, 0x1A, 0x00, 0x4C] ++ [(50#16, 0#16)]

/-! ### Well-formedness and decoding -/

theorem smoke_ill_formed_index : (Instr.cfgWrite 10#4 0#32).wf = false ∧ (Instr.cfgWrite 15#4 0#32).wf = false := by
  decide

theorem smoke_well_formed_index : (Instr.cfgWrite 9#4 0xFFFFFFFF#32).wf = true := by decide

theorem test_decode_nop :
    decode 0b0000_0000_00000000_0000000000000000_0000000000000000#48 = .event .nop := by decide

theorem test_decode_read :
    decode 0b0001_0000_00000000_0000000000000000_0000000000000000#48 = .event .read := by decide

/-- `IDX` 9, a `DATA` with distinct halves. -/
theorem test_decode_cfg_write :
    decode 0b0010_1001_00000000_1000000000000001_0100000000000011#48 = .event (.cfgWrite 9#4 0x80014003#32) := by
  decide

theorem test_decode_clr_flags :
    decode 0b0011_0000_00000000_0000000000000000_0000000000000010#48 = .event (.clrFlags 0b10#2) := by decide

theorem test_decode_hold_elapsed :
    decode 0b0100_0000_00000000_0000000000000000_0000000000000000#48 = .event .holdElapsed := by decide

/-- `HIGH` above, `LOW` below. -/
theorem test_decode_sample :
    decode 0b0101_0000_00000000_0000000001000110_0000000000110010#48 = .event (.sample 50#16 70#16) := by decide

theorem test_decode_buf_end :
    decode 0b0110_0000_00000000_0000000000000000_0000000000000000#48 = .event .bufEnd := by decide

theorem test_decode_cap_timeout :
    decode 0b0111_0000_00000000_0000000000000000_0000000000000000#48 = .event .capTimeout := by decide

/-- SQ6, SQ7, SQ8, H12, H14, H15 and P5's word. -/
theorem test_decode_illegal :
    [0x100000000001#48, 0x500100000000#48, 0xF00000000000#48, 0x2A0000000000#48, 0x200100000000#48, 0x300000000004#48,
      0x800000000000#48].map decode =
    [.illegal .mustBeZero, .illegal .mustBeZero, .illegal .reservedOpcode, .illegal .notWritable, .illegal .mustBeZero,
      .illegal .mustBeZero, .illegal .reservedOpcode] := by decide

theorem test_table_word : decodeTableWord 48 0x2300001A0032 = some (.cfgWrite 3#4 0x001A0032#32) := by decide

theorem test_fetch_word :
    after (step (State.reset.withFetchWord 48 0x100000000000)) (fun t => (t.blk.fsm, t.out.consumed, t.inbox)) =
      some (.starting, true, []) := by decide

/-- A reset scheduled for the coming cycle does not keep the word from running. -/
theorem test_fetch_word_lowers_reset :
    after (step (({ State.reset with pins := [{ rst := true, rdIdx := 0#4 }] } : State).withFetchWord 48 0x100000000000))
      (fun t => t.blk.fsm) = some .starting := by decide

/-! ### One step each: 95_test_vectors.md section 4 and 5 -/

/-- SQ5. -/
theorem test_nop : after (step (st idleB [some 0x000000000000#48])) (fun t => (t.blk, t.out.consumed)) = some (idleB, true) := by
  decide

/-- SQ1. -/
theorem test_read :
    after (step (boot 0x100000000000#48)) (fun t => (t.blk.fsm, t.blk.line, t.out.armHold, t.out.armHoldMs)) =
      some (.starting, .driveLow, true, 18#8) := by decide

/-- SQ14. -/
theorem test_read_rejected :
    after (step (st (awaitingB 1#8) [some 0x100000000000#48])) (fun t => t.blk) =
      some { awaitingB 1#8 with reject := true } := by decide

/-- H1, H6, H7, H10: the read of the register after the write. -/
theorem test_cfg_write :
    [(0x28000000FF05#48, 8#4), (0x2900FFFFF0FF#48, 9#4), (0x2000FFFF00FE#48, 0#4), (0x250012345678#48, 5#4)].map
      (fun p => after (step (boot p.1)) (fun t => regRead t.blk p.2)) =
    [some 0x0000FE29#32, some 0x000001FF#32, some 0x00000100#32, some 0x00005678#32] := by decide

/-- SQ10: a `CFG_WRITE` in `STARTING`. -/
theorem test_cfg_write_rejected :
    after (step (st startingB [some 0x250000000005#48])) (fun t => t.blk) = some { startingB with reject := true } := by
  decide

/-- SQ21. -/
theorem test_clr_flags :
    after (step (st { idleB with reject := true, illegal := true } [some 0x300000000001#48]))
      (fun t => (t.blk.reject, t.blk.illegal)) = some (false, true) := by decide

/-- H15. -/
theorem test_clr_flags_illegal :
    after (step (boot 0x300000000004#48)) (fun t => regRead t.blk 0xA#4) = some 0x00002470#32 := by decide

/-- SQ9. -/
theorem test_hold_elapsed :
    after (step (st startingB [some 0x400000000000#48])) (fun t => (t.blk.fsm, t.blk.line)) =
      some (.listening, .input) := by decide

/-- SQ2. -/
theorem test_hold_elapsed_rejected :
    after (step (st idleB [some 0x400000000000#48])) (fun t => t.blk) = some { idleB with reject := true } := by decide

/-- SQ12. -/
theorem test_sample_ack :
    after (step (st (awaitingB 0#8) [some 0x500000500050#48])) (fun t => (t.blk.cnt, t.blk.ackOk, t.blk.acc)) =
      some (1#8, true, 0#40) := by decide

/-- SQ13. -/
theorem test_sample_bit :
    after (step (st (awaitingB 1#8) [some 0x500000460032#48])) (fun t => (t.blk.cnt, t.blk.acc)) =
      some (2#8, 1#40) := by decide

/-- SQ16. -/
theorem test_buf_end :
    after (step (st (awaitingB 42#8) [some 0x600000000000#48])) (fun t => t.blk) =
      some { awaitingB 42#8 with fsm := .decoding } := by decide

/-- SQ19. -/
theorem test_cap_timeout :
    after (step (st (awaitingB 42#8) [some 0x700000000000#48]))
      (fun t => (t.blk.fsm, t.blk.pend, t.blk.line, t.out.capRelease)) =
      some (.done, .timeout, .driveHigh, false) := by decide

/-- SQ11: the presented `READ` is not consumed. -/
theorem test_listening :
    after (step (st listeningB [some 0x100000000000#48]))
      (fun t => (t.blk.fsm, t.out.capStart, t.out.capTimeoutMs, t.inbox)) =
      some (.awaiting, true, 10#4, [some 0x100000000000#48]) := by decide

/-- SQ17. -/
theorem test_decoding :
    after (step (st decodingB [])) (fun t => (t.blk.fsm, t.blk.pend, t.blk.line, t.out.capRelease)) =
      some (.done, .ok, .driveHigh, true) := by decide

/-- SQ18. -/
theorem test_done :
    after (step (st (doneB .checksumError 0x32001A004D#40) [])) (fun t => (regRead t.blk 0xA#4, t.blk.payload, t.out.doneCode)) =
      some (0x00002140#32, 0x32001A004D#40, 4#3) := by decide

/-- SQ20. -/
theorem test_done_discards :
    after (step (st (doneB .ackMismatch 0x32001A004C#40) [])) (fun t => (t.blk.resultCode, t.blk.payload, t.out.done)) =
      some (.ackMismatch, 0#40, true) := by decide

/-- RS1: the reset state, no `done`, the inbox untouched. -/
theorem test_reset :
    after (step { st (awaitingB 17#8) [some 0x600000000000#48] with pins := [{ rst := true, rdIdx := 0#4 }] })
      (fun t => (t.blk, t.out.done, t.out.evReady, t.inbox)) =
      some (Block.reset, false, false, [some 0x600000000000#48]) := by decide

/-! ### The classifier: 95_test_vectors.md section 2 -/

/-- K3, K4, K5, K6. -/
theorem test_norm :
    [(2#8, 0x7FFF#16), (2#8, 0x8000#16), (255#8, 0x0100#16), (255#8, 0x0101#16)].map
      (fun p => norm { refCfg with tickMul := p.1 } p.2) = [0xFFFE#16, 0xFFFF#16, 0xFF00#16, 0xFFFF#16] := by decide

/-- K7, K8, K9. -/
theorem test_win :
    [win 0#16 10#16 20#16, win 30#16 10#16 20#16, win 31#16 10#16 20#16, win 0xFFFF#16 0xFFF0#16 0x20#16] =
      [true, true, false, true] := by decide

/-- K10 to K13, at the edges. -/
theorem test_cls_win :
    [(40#16, 16#16), (61#16, 26#16), (50#16, 37#16), (60#16, 80#16), (50#16, 59#16), (0#16, 0#16)].map
      (fun p => clsWin refCfg p.1 p.2) = [.bit0, .err, .err, .bit1, .err, .err] := by decide

/-- K15, K16. -/
theorem test_ack_win :
    [(60#16, 0#16), (100#16, 0xFFFF#16), (59#16, 80#16), (101#16, 80#16)].map (fun p => ackWin refCfg p.1 p.2) =
      [true, true, false, false] := by decide

/-- K22, K23, K24. -/
theorem test_cls_sum :
    [(30#16, 29#16), (30#16, 30#16), (50#16, 50#16), (50#16, 51#16), (0xFFFF#16, 0xFFFF#16)].map
      (fun p => clsSum refCfg p.1 p.2) = [.err, .bit0, .bit0, .bit1, .bit1] := by decide

/-- K26, K27. -/
theorem test_ack_sum :
    [(70#16, 70#16), (90#16, 90#16), (70#16, 69#16), (90#16, 91#16), (0xFFFF#16, 0xFFFF#16)].map
      (fun p => ackSum refCfg p.1 p.2) = [true, true, false, false, false] := by decide

/-- K29. -/
theorem test_normalised_bits :
    [(25#16, 13#16), (25#16, 35#16)].map (fun p => classifyBit { refCfg with tickMul := 2#8 } p.1 p.2) =
      [.bit0, .bit1] := by decide

/-- FR1, FR3, FR8, FR11, by the reference function. -/
theorem test_decode_frame :
    [frameX1, frameX1.take 40, frameX1.set 1 (50#16, 48#16), frameX1.set 40 (50#16, 70#16)].map (decodeFrame refCfg) =
      [(.ok, 0x32001A004C#40), (.framingUnderflow, 0#40), (.bitDecodeError, 0#40),
        (.checksumError, 0x32001A004D#40)] := by decide +kernel

/-- FR20, the vector of 70_reset_and_hazards.md R264: the frame of X1 on an unprogrammed block. -/
theorem test_unprogrammed_frame : decodeFrame CfgRegs.reset frameX1 = (.bitDecodeError, 0#40) := by decide +kernel

/-! ### The assembler: 30_encoding.md R88 -/

theorem test_asm_text :
    assembleText ["cfg bit0_win, 0x001A0032", "cfg 5, 10", "sample 50, 70", "clrflags 3", "idle 2", "captimeout"] =
      some [some 0x2300001A0032#48, some 0x25000000000A#48, some 0x500000460032#48, some 0x300000000003#48, none, none,
        some 0x700000000000#48] := by decide

theorem test_asm_refuses :
    ["cfg 10, 0", "cfg status, 0", "clrflags 4", "sample 65536, 0", "byte 256", "jump 0", "read 1"].map
      (fun l => assembleText [l]) = [none, none, none, none, none, none, none] := by decide

/-- The last words of a 42-sample frame: bits 2, 1 and 0 of 0x4C and the release. -/
theorem test_asm_frame :
    (assembleText ["frame 0x32, 0x00, 0x1A, 0x00, 0x4C"]).map (fun ws => (ws.length, ws.drop 38)) =
      some (42, [some 0x500000460032#48, some 0x5000001A0032#48, some 0x5000001A0032#48, some 0x500000000032#48]) := by
  decide

/-! ### Witnesses: the hypotheses of every obligation are met -/

/-- A whole read cycle's schedule before two empty cycles, from `IDLE`. -/
def readS : State := st idleB (readCycle frameX1 ++ [none, none])

/-- A machine whose coming cycle has `rst = 1`. -/
def resetS : State :=
  { st (awaitingB 17#8) [some 0x600000000000#48] with pins := [{ rst := true, rdIdx := 0xA#4 }] }

theorem witness_EveryRegisterReadIsItsFields :
    (regRead (doneB .ok 0#40) 0xA#4 = 0x00002075#32) ∧ (0 < 4 ∧ 3 < 4) ∧
      (regRead { idleB with payload := 0x32001A004C#40 } 0xC#4).extractLsb' (8 * 3) 8 = 0x00#8 ∧
      (regRead { idleB with payload := 0x32001A004C#40 } 0xC#4).extractLsb' (8 * 0) 8 = 0x32#8 := by decide

theorem witness_WrittenRegisterReadsBackLegalised :
    (st idleB []).pinsNow.rst = false ∧ (st idleB []).blk.fsm = .idle ∧ 0#4 ≤ 9#4 ∧ 9#4 ≤ 9#4 ∧ 8#4 ≠ 9#4 := by decide

/-- The clauses at their boundaries: 0 and 1 in `tick_mul`, 40, 41, 254, 255 in LEN, 17, 18 and 0, 1, 10, 11 in TIMING. -/
theorem witness_WrittenRegisterReadsBackLegalised_clauses :
    [(0#4, 0x00000001#32), (0#4, 0x00000101#32), (8#4, 0x00002928#32), (8#4, 0x0000FFFE#32), (9#4, 0x00000011#32),
      (9#4, 0x00000112#32), (9#4, 0x00000A12#32), (9#4, 0x00000B12#32), (2#4, 0xFFFFFFFF#32), (1#4, 0xFFFFFFFF#32)].map
      (fun p => after (exec (.cfgWrite p.1 p.2) (st idleB [])) (fun t => regRead t.blk p.1)) =
    [some 0x00000101#32, some 0x00000101#32, some 0x00002929#32, some 0x0000FEFE#32, some 0x00000112#32,
      some 0x00000112#32, some 0x00000A12#32, some 0x00000A12#32, some 0x0000FFFF#32, some 0xFFFFFFFF#32] := by decide

theorem witness_ReadPortShowsTheOldStateAndHasNoEffect :
    ∃ t, step resetS = .next t ∧ t.out.rdData = regRead resetS.blk 0xA#4 := ⟨_, rfl, rfl⟩

theorem witness_DecodeOfEncodeIsTheEvent :
    (Instr.cfgWrite 9#4 0xFFFFFFFF#32).wf = true ∧ (Instr.sample 0xFFFF#16 0#16).wf = true := by decide

theorem witness_EncodeOfDecodeIsTheWord : decode 0x2900FFFFFFFF#48 = .event (.cfgWrite 9#4 0xFFFFFFFF#32) := by decide

theorem witness_StepRunsThePresentedEvent :
    (boot 0x100000000000#48).inbox = some 0x100000000000#48 :: [] ∧ decode 0x100000000000#48 = .event .read := by decide

/-- An illegal word, a rejected and an accepted event, in each accepting state. -/
theorem witness_AcceptanceCheck :
    [idleB, startingB, awaitingB 0#8].all (fun b => !(st b []).pinsNow.rst && b.fsm.accepting) = true ∧
      legal 0x2A0000000000#48 = false ∧
      decode 0x400000000000#48 = .event .holdElapsed ∧ accepts .holdElapsed .idle = false ∧
      accepts .holdElapsed .awaiting = false ∧ accepts .holdElapsed .starting = true := by decide

/-- Each clause at a boundary: opcode 8, a bare event with bit 0 and with bit 43, index 10, `ev[39:32]` 1, `ev[43:2]` 1,
`ev[43:32]` 1. -/
theorem witness_IllegalWordOnlySetsIllegal :
    (boot 0#48).pinsNow.rst = false ∧ (boot 0#48).blk.fsm.accepting = true ∧
      [0x800000000000#48, 0x000000000001#48, 0x780000000000#48, 0x2A0000000000#48, 0x200100000000#48, 0x300000000004#48,
        0x500100000000#48].all (fun ev => !legal ev) = true ∧
      8 ≤ (0x800000000000#48).toNat / 2 ^ 44 ∧ (0x000000000001#48).toNat % 2 ^ 44 ≠ 0 ∧
      10 ≤ (0x2A0000000000#48).toNat / 2 ^ 40 % 2 ^ 4 ∧ (0x200100000000#48).toNat / 2 ^ 32 % 2 ^ 8 ≠ 0 ∧
      (0x300000000004#48).toNat / 2 ^ 2 % 2 ^ 42 ≠ 0 ∧ (0x500100000000#48).toNat / 2 ^ 32 % 2 ^ 12 ≠ 0 := by decide

theorem witness_EmptyInboxChangesNothing :
    (st (awaitingB 3#8) [none]).pinsNow.rst = false ∧ (st (awaitingB 3#8) [none]).blk.fsm.accepting = true ∧
      (st (awaitingB 3#8) [none]).inbox.head?.join = none := by decide

theorem witness_PortsOfACycle :
    ∃ t u v : State, step (st listeningB []) = .next t ∧ t.out.capStart = true ∧ step readS = .next u ∧
      u.out.armHold = true ∧ step resetS = .next v ∧ v.out.evReady = false := ⟨_, _, _, rfl, rfl, rfl, rfl, rfl, rfl⟩

theorem witness_ResetCycleAbandonsEverything :
    resetS.pinsNow.rst = true ∧ resetS.inbox = some 0x600000000000#48 :: [] := by decide

theorem witness_BlockNeverStops :
    ∃ t u v : State, step (st listeningB []) = .next t ∧ step (st decodingB []) = .next u ∧
      step (st (doneB .ok 1#40) []) = .next v ∧ (st startingB []).pinsNow.rst = false ∧ startingB.fsm = .starting ∧
      idleB.fsm = .idle ∧ (awaitingB 0#8).fsm = .awaiting := ⟨_, _, _, rfl, rfl, rfl, rfl, rfl, rfl, rfl⟩

/-- States for the statements about one event: no reset, one in each accepting state. -/
theorem witness_accepting_states :
    (st idleB []).pinsNow.rst = false ∧ (st idleB []).blk.fsm = .idle ∧
      (st startingB []).pinsNow.rst = false ∧ (st startingB []).blk.fsm = .starting ∧
      (st (awaitingB 0#8) []).pinsNow.rst = false ∧ (st (awaitingB 0#8) []).blk.fsm = .awaiting := by decide

theorem witness_NopIsConsumedAndChangesNothing :
    (st startingB [some 1#48]).pinsNow.rst = false ∧ (st startingB [some 1#48]).blk.fsm = .starting ∧
      (st startingB [some 1#48]).inbox = some 1#48 :: [] ∧ (1#48).toNat / 2 ^ 44 = 0 ∧ (1#48).toNat ≠ 0 := by decide

theorem witness_ReadStartsACycleInIdle :
    (st idleB []).pinsNow.rst = false ∧ (st idleB []).blk.fsm = .idle ∧ (st (awaitingB 0#8) []).blk.fsm = .awaiting := by
  decide

theorem witness_HoldElapsedReleasesTheLine :
    (st startingB []).pinsNow.rst = false ∧ (st startingB []).blk.fsm = .starting ∧ (st idleB []).blk.fsm = .idle := by
  decide

theorem witness_CapTimeoutEndsTheCycle :
    ∃ t, (st (awaitingB 42#8) []).pinsNow.rst = false ∧ (st (awaitingB 42#8) []).blk.fsm = .awaiting ∧
      exec .capTimeout (st (awaitingB 42#8) []) = .next t ∧ t.pinsNow.rst = false ∧
      (st startingB []).blk.fsm = .starting := ⟨_, rfl, rfl, rfl, rfl, rfl⟩

theorem witness_BufEndStartsDecoding :
    (st (awaitingB 0#8) []).pinsNow.rst = false ∧ (st (awaitingB 0#8) []).blk.fsm = .awaiting ∧
      (st startingB []).blk.fsm = .starting := by decide

/-- Indices 0, 1, 40 (a bit and an error), 41, 255, and 1 after an error. -/
theorem witness_SampleIsFoldedByItsIndex :
    [awaitingB 0#8, awaitingB 1#8, awaitingB 40#8, awaitingB 41#8, awaitingB 255#8,
      { awaitingB 1#8 with bitErr := true }].map
      (fun b => after (exec (.sample 50#16 70#16) (st b [])) (fun t => (t.blk.cnt, t.blk.acc, t.blk.ackOk))) =
    [some (1#8, 0#40, false), some (2#8, 1#40, false), some (41#8, 1#40, false), some (42#8, 0#40, false),
      some (255#8, 0#40, false), some (2#8, 0#40, false)] ∧
    classifyBit refCfg 50#16 48#16 = .err ∧ classifyBit refCfg 50#16 70#16 = .bit1 ∧
    (st (awaitingB 40#8) []).pinsNow.rst = false := by decide

theorem witness_CfgWriteWritesOneRegister :
    (st idleB []).pinsNow.rst = false ∧ (st idleB []).blk.fsm.accepting = true ∧ (st idleB []).blk.fsm = .idle ∧
      (st startingB []).blk.fsm.accepting = true ∧ (9#4).toNat ≤ 9 ∧ 10 ≤ (10#4).toNat ∧
      after (exec (.cfgWrite 10#4 0#32) (st startingB [])) (fun t => t.blk) =
        some { startingB with illegal := true } := by decide

theorem witness_ClrFlagsClearsByItsMask :
    (boot 0x380000000000#48).pinsNow.rst = false ∧ (boot 0x380000000000#48).blk.fsm = .idle ∧
      (boot 0x380000000000#48).inbox = some 0x380000000000#48 :: [] ∧ (0x380000000000#48).toNat / 2 ^ 44 = 3 ∧
      (0x380000000000#48).toNat / 4 % 2 ^ 42 ≠ 0 ∧ (0x300000000004#48).toNat / 4 % 2 ^ 42 ≠ 0 := by decide

theorem witness_ListeningStartsTheCapture :
    (st listeningB []).pinsNow.rst = false ∧ (st listeningB []).blk.fsm = .listening := by decide

/-- The length bounds at their edges, then each later test. -/
theorem witness_DecodingResolvesTheStatus :
    (st decodingB []).pinsNow.rst = false ∧ (st decodingB []).blk.fsm = .decoding ∧
      [{ decodingB with cnt := 40#8 }, { decodingB with cnt := 41#8 }, { decodingB with cnt := 42#8 },
        { decodingB with cnt := 43#8 }, { decodingB with ackOk := false, bitErr := true },
        { decodingB with bitErr := true, acc := 0#40 }, { decodingB with acc := 0x32001A004D#40 }].map
        (fun b => after (step (st b [])) (fun t => t.blk.pend)) =
      [some .framingUnderflow, some .ok, some .ok, some .framingOverflow, some .ackMismatch, some .bitDecodeError,
        some .checksumError] := by decide

theorem witness_DoneCommitsAndReports :
    (st (doneB .timeout 5#40) []).pinsNow.rst = false ∧ (st (doneB .timeout 5#40) []).blk.fsm = .done := by decide

theorem witness_DoneStrobeIsTheCallback :
    ∃ t u : State, step (st (doneB .ok 5#40) []) = .next t ∧ t.out.callback = some (.onData 5#40) ∧
      step (st (doneB .timeout 5#40) []) = .next u ∧ u.out.callback = some (.onError 1#3) := ⟨_, _, rfl, rfl, rfl, rfl⟩

/-- A step without reset, for the statements about any such step. -/
theorem witness_SequencerTransitions : ∃ t, readS.pinsNow.rst = false ∧ step readS = .next t := ⟨_, rfl, rfl⟩

theorem witness_ConfigurationChangesOnlyInIdle :
    ∃ t, (boot 0x25000000000A#48).pinsNow.rst = false ∧ step (boot 0x25000000000A#48) = .next t ∧
      t.blk.cfg ≠ (boot 0x25000000000A#48).blk.cfg ∧ startingB.fsm ≠ .idle := ⟨_, rfl, rfl, by decide, by decide⟩

theorem witness_OnlyFourTransitionsWriteTheLine :
    ∃ t u v : State, step readS = .next t ∧ t.blk.line ≠ readS.blk.line ∧ readS.pinsNow.rst = false ∧
      step (st decodingB []) = .next u ∧ u.blk.line ≠ decodingB.line ∧
      step (st (awaitingB 0#8) [some 0x700000000000#48]) = .next v ∧ v.blk.line ≠ (awaitingB 0#8).line :=
  ⟨_, _, _, rfl, by decide, rfl, rfl, by decide, rfl, by decide⟩

theorem witness_OnlyReadAndSampleWriteTheFrameState :
    ∃ t, readS.pinsNow.rst = false ∧ step readS = .next t ∧ acceptedEvent readS = some .read ∧
      acceptedEvent (st (awaitingB 0#8) [some 0x500000500050#48]) = some (.sample 80#16 80#16) :=
  ⟨_, rfl, rfl, by decide, by decide⟩

theorem witness_OnlyReadAndDoneWriteTheResult :
    ∃ t u : State, step (st (doneB .ok 5#40) []) = .next t ∧ t.blk.payload ≠ (doneB .ok 5#40).payload ∧
      (st (doneB .ok 5#40) []).pinsNow.rst = false ∧ step (st decodingB []) = .next u ∧ u.blk.pend ≠ decodingB.pend ∧
      acceptedEvent readS = some .read := ⟨_, _, rfl, by decide, rfl, rfl, by decide, by decide⟩

theorem witness_StickyFlagsAreSetAndClearedOnlyByTheirRules :
    ∃ t u v : State, step (st { idleB with reject := true, illegal := true } [some 0x300000000003#48]) = .next t ∧
      t.blk.reject = false ∧ t.blk.illegal = false ∧ step (st idleB [some 0x400000000000#48]) = .next u ∧
      idleB.reject = false ∧ u.blk.reject = true ∧ step (st idleB [some 0x800000000000#48]) = .next v ∧
      v.blk.illegal = true := ⟨_, _, _, rfl, rfl, rfl, rfl, rfl, rfl, rfl, rfl⟩

theorem witness_StickyFlagsInfluenceNothingElse : ∃ t, step readS = .next t ∧ readS.pinsNow.rdIdx ≠ 0xA#4 :=
  ⟨_, rfl, by decide⟩

theorem witness_HostEventsAreIdempotent :
    ∃ t u : State, idleB.fsm.accepting = true ∧ (st idleB []).pinsNow.rst = false ∧
      exec (.cfgWrite 9#4 0#32) (st idleB []) = .next t ∧ t.pinsNow.rst = false ∧ exec (.cfgWrite 9#4 0#32) t = .next u :=
  ⟨_, _, rfl, rfl, rfl, rfl, rfl⟩

theorem witness_EveryStepKeepsTheInvariants : ∃ t, decodingB.Inv ∧ step (st decodingB []) = .next t :=
  ⟨_, by decide, rfl⟩

theorem witness_EveryStepKeepsTheConfigurationLegal :
    ∃ t, Block.reset.cfg.Legal ∧ step (boot 0x28000000FF05#48) = .next t ∧ t.blk.cfg.lenMax = 254#8 :=
  ⟨_, by decide, rfl, rfl⟩

theorem witness_PolicySelectsTheClassifier :
    refCfg.policy = .window ∧ ({ refCfg with policy := .sum } : CfgRegs).policy = .sum := by decide

/-- 41 samples, all data (0, 0), and 42, the first data sample not (0, 0). -/
theorem witness_UnprogrammedBlockClassifiesOnlyZero :
    let zero : Duration × Duration := (0#16, 0#16)
    40 ≤ (List.replicate 40 zero).length ∧ ((1#16, 0#16) :: List.replicate 40 zero).length ≤ 41 ∧
      classifyAck State.reset.blk.cfg 80#16 80#16 = true ∧ (∀ p ∈ (List.replicate 40 zero).take 40, p = zero) ∧
      ¬ ∀ p ∈ ((1#16, 0#16) :: List.replicate 40 zero).take 40, p = zero :=
  ⟨by simp, by simp, by decide, by simp, by simp⟩

/-- The 40 data samples of X1 classify, and give its bytes. -/
theorem witness_DataBitsAreMostSignificantFirst :
    (dataSamples [0x32, 0x00, 0x1A, 0x00, 0x4C]).length = 40 ∧
      decodeBits refCfg (dataSamples [0x32, 0x00, 0x1A, 0x00, 0x4C]) 0#40 = some 0x32001A004C#40 ∧
      (dataSamples [0x32, 0x00, 0x1A, 0x00, 0x4C])[1 - 1]? = some (50#16, 26#16) ∧
      (dataSamples [0x32, 0x00, 0x1A, 0x00, 0x4C])[40 - 1]? = some (50#16, 26#16) := by decide +kernel

/-- A read cycle with a gap, a rejected `READ` and one sample before its `BUF_END`. -/
def gapS : State :=
  st idleB ([0x100000000000#48, 0x400000000000#48].map some ++ [none, none] ++
    [0x100000000000#48, 0x500000500050#48, 0x600000000000#48].map some)

theorem witness_StreamingDecoderEqualsTheReference :
    ∃ s' t : State, gapS.noReset ∧ gapS.blk.cfg.Legal ∧ acceptedEvent gapS = some .read ∧ step gapS = .next s' ∧
      run 5 s' = .next t ∧ readsAccepted 5 s' = 0 ∧ acceptedEvent t = some .bufEnd ∧
      samplesAccepted 5 s' = [(80#16, 80#16)] :=
  ⟨_, _, by decide, by decide, by decide, rfl, rfl, by decide, by decide, by decide⟩

theorem witness_BackToBackReadCycleReportsOnce :
    readS.noReset ∧ readS.blk.fsm = .idle ∧ readS.blk.cfg.Legal ∧ readS.inbox = readCycle frameX1 ++ [none, none] :=
  ⟨by decide, rfl, by decide, rfl⟩

/-- The empty buffer is a buffer too. -/
theorem witness_ReadCycleTiming :
    (st idleB (readCycle [] ++ [])).noReset ∧ (st idleB (readCycle [] ++ [])).blk.fsm = .idle ∧
      (st idleB (readCycle [] ++ [])).inbox = readCycle [] ++ [] := ⟨by decide, rfl, rfl⟩

theorem witness_OneDoneStrobePerAcceptedRead :
    ∃ t, readS.noReset ∧ run 1 readS = .next t ∧ readsAccepted 1 readS = 1 ∧ inProgress t = 1 :=
  ⟨_, by decide, rfl, by decide, rfl⟩

theorem witness_ReportedResultStaysReadable :
    ∃ t u : State, (st (doneB .ok 5#40) []).noReset ∧ (st (doneB .ok 5#40) []).blk.fsm = .done ∧
      step (st (doneB .ok 5#40) []) = .next t ∧ readsAccepted 1 t = 0 ∧ run 1 t = .next u :=
  ⟨_, _, by decide, rfl, rfl, by decide, rfl⟩

theorem witness_AtMostTwoTransientCycles :
    (st decodingB [some 0x100000000000#48]).noReset ∧ (st decodingB [some 0x100000000000#48]).blk.fsm = .decoding ∧
      (st listeningB [some 0x100000000000#48]).noReset ∧ (st listeningB [some 0x100000000000#48]).blk.fsm = .listening :=
  ⟨by decide, rfl, by decide, rfl⟩

/-- The hold timer answers, as it may, in `STARTING`; a capture event in `AWAITING`. -/
theorem witness_DutifulTimerAndCaptureAreNeverRejected :
    ∃ t, Duties.Matches { holdDue := true, captureDue := false } startingB ∧
      (st startingB [some 0x400000000000#48]).pinsNow.rst = false ∧
      consumedEvent (st startingB [some 0x400000000000#48]) = some .holdElapsed ∧
      ({ holdDue := true, captureDue := false } : Duties).allow .holdElapsed = true ∧
      step (st startingB [some 0x400000000000#48]) = .next t ∧
      Duties.Matches { holdDue := false, captureDue := true } (awaitingB 0#8) :=
  ⟨_, by decide, rfl, by decide, rfl, rfl, by decide⟩

theorem witness_InstancesAreIndependent : (System.mk [readS, resetS]).insts[1]? = some resetS := rfl

theorem witness_AssemblerEmitsOnlyLegalWords :
    assemble [.idle 1, .cfg 9 0xFFFFFFFF] = some [none, some 0x2900FFFFFFFF#48] ∧
      assembleLine (.cfg 10 0) = none ∧ assembleLine (.sample 65535 65536) = none ∧
      assembleLine (.clrflags 3) = some [some 0x300000000003#48] := by decide

theorem witness_PseudoInstructionsExpandAsListed :
    255 < 256 ∧ 0 < 256 ∧ 7 < 8 ∧ (assembleLine (.byte 1)).map (fun ws => ws.getLast?) =
      some (some (some 0x500000460032#48)) := by decide

end Sys2Proof.Tests
end

section
namespace Sys2Proof.Machine

/-- Settles O7: one evaluation per table, in the order of the conjuncts (fsm R36, line R38, policy R22, status R37 with
the short codes of R198). Every constructor is listed, so each list runs the whole of its code function. -/
theorem enumerationCodesAndShortCodes : Obligations.EnumerationCodesAndShortCodes := by
  unfold Obligations.EnumerationCodesAndShortCodes
  refine ⟨?fsm, ?line, ?policy, ?status⟩
  case fsm => rfl
  case line => rfl
  case policy => rfl
  case status => rfl

end Sys2Proof.Machine
end

section
/-! What a step leaves in the block, read off `step_cases` once: the facts the state rules of 10_state.md rest on. -/

namespace Sys2Proof.Machine

variable {s t : State} {i : Instr}

@[simp] theorem afterHeld_blk (s : State) (b : Block) (o : Outputs) : (afterHeld s b o).blk = b := rfl
@[simp] theorem afterHeld_out (s : State) (b : Block) (o : Outputs) : (afterHeld s b o).out = o := rfl
@[simp] theorem afterConsumed_blk (s : State) (b : Block) : (afterConsumed s b).blk = b := rfl
@[simp] theorem afterConsumed_out (s : State) (b : Block) :
    (afterConsumed s b).out = { idleOutputs s.blk s.pinsNow with consumed := true } := rfl

/-- No event's effect touches `rd_data` (43_host_interface.md R195). -/
@[simp] theorem effectOf_rdData (i : Instr) (s : State) : (effectOf i s).out.rdData = s.out.rdData := by
  cases i <;> rfl

/-- Of the events only `CFG_WRITE` writes the configuration (43_host_interface.md R191). -/
theorem effectOf_cfg (i : Instr) (s : State) :
    (effectOf i s).blk.cfg = s.blk.cfg ∨
      ∃ idx d, i = .cfgWrite idx d ∧ (effectOf i s).blk.cfg = writeCfg s.blk.cfg idx d := by
  cases i with
  | cfgWrite idx d => exact .inr ⟨idx, d, rfl, rfl⟩
  | sample lo hi => exact .inl (foldSample_cfg lo hi s.blk)
  | _ => exact .inl rfl

/-! A sample leaves everything but the frame state and the accumulator alone (41_frame_decoder.md R131). -/

@[simp] theorem foldSample_line (lo hi : Duration) (b : Block) : (foldSample lo hi b).line = b.line := by
  rw [foldSample_frame]

@[simp] theorem foldSample_pend (lo hi : Duration) (b : Block) : (foldSample lo hi b).pend = b.pend := by
  rw [foldSample_frame]

@[simp] theorem foldSample_resultCode (lo hi : Duration) (b : Block) :
    (foldSample lo hi b).resultCode = b.resultCode := by
  rw [foldSample_frame]

@[simp] theorem foldSample_payload (lo hi : Duration) (b : Block) : (foldSample lo hi b).payload = b.payload := by
  rw [foldSample_frame]

@[simp] theorem foldSample_avail (lo hi : Duration) (b : Block) : (foldSample lo hi b).avail = b.avail := by
  rw [foldSample_frame]

@[simp] theorem foldSample_reject (lo hi : Duration) (b : Block) : (foldSample lo hi b).reject = b.reject := by
  rw [foldSample_frame]

@[simp] theorem foldSample_illegal (lo hi : Duration) (b : Block) : (foldSample lo hi b).illegal = b.illegal := by
  rw [foldSample_frame]

/-- `rd_data` is the register of the state at the start of the cycle (43_host_interface.md R195). -/
theorem step_rdData (h : step s = .next t) : t.out.rdData = regRead s.blk s.pinsNow.rdIdx := by
  cases step_cases h with
  | accepted i _ _ _ _ _ ht => rw [ht, effectOf_rdData]; rfl
  | _ => simp_all [idleOutputs]

/-- What a step can leave in the configuration (43_host_interface.md R191). -/
theorem step_cfg_cases (h : step s = .next t) :
    (s.pinsNow.rst = true ∧ t.blk.cfg = CfgRegs.reset) ∨ t.blk.cfg = s.blk.cfg ∨
      ∃ idx d, acceptedEvent s = some (.cfgWrite idx d) ∧ t.blk.cfg = writeCfg s.blk.cfg idx d := by
  cases step_cases h with
  | reset hr _ _ ht => exact .inl ⟨hr, by rw [ht]; rfl⟩
  | accepted i _ _ _ ha _ ht =>
    subst ht
    obtain hkept | ⟨idx, d, rfl, hw⟩ := effectOf_cfg i (consume (beginCycle s))
    · exact .inr (.inl hkept)
    · exact .inr (.inr ⟨idx, d, ha, hw⟩)
  | _ => simp_all

/-- An accepted `READ` leaves the block its effect writes (42_sequencer.md R163). -/
theorem step_blk_of_read (h : step s = .next t) (ha : acceptedEvent s = some .read) :
    t.blk = (readEffect s).blk := by
  cases step_cases h with
  | accepted i _ _ _ hi _ ht =>
    obtain rfl : i = .read := by simpa [hi] using ha
    rw [ht]; rfl
  | _ => simp_all

end Sys2Proof.Machine
end

section
/-! 10_state.md R46: the invariants (a) to (g), state by state of the sequencer, and that every cycle keeps them. -/

namespace Sys2Proof.Machine

variable {b : Block} {i : Instr}

/-- No payload without a code that reports one (10_state.md R46 (d)). -/
def Block.PayloadFits (b : Block) : Prop := b.resultCode ≠ .ok ∧ b.resultCode ≠ .checksumError → b.payload = 0#40

theorem inv_idle_iff (hf : b.fsm = .idle) :
    b.Inv ↔ b.line = .driveHigh ∧ b.PayloadFits ∧ (b.avail = true → b.resultCode ≠ .none) := by
  simp [Block.Inv, Block.LineFits, Block.ResultFits, Block.ProgressFits, Block.PayloadFits, hf]

theorem inv_starting_iff (hf : b.fsm = .starting) :
    b.Inv ↔ b.line = .driveLow ∧ b.PayloadFits ∧ b.avail = false ∧ b.pend = .none ∧ b.cnt = 0#8 := by
  simp [Block.Inv, Block.LineFits, Block.ResultFits, Block.ProgressFits, Block.PayloadFits, hf, and_assoc]

theorem inv_listening_iff (hf : b.fsm = .listening) :
    b.Inv ↔ b.line = .input ∧ b.PayloadFits ∧ b.avail = false ∧ b.pend = .none ∧ b.cnt = 0#8 := by
  simp [Block.Inv, Block.LineFits, Block.ResultFits, Block.ProgressFits, Block.PayloadFits, hf, and_assoc]

theorem inv_capture_iff (hf : b.fsm = .awaiting ∨ b.fsm = .decoding) :
    b.Inv ↔ b.line = .input ∧ b.PayloadFits ∧ b.avail = false ∧ b.pend = .none := by
  obtain hf | hf := hf <;>
    simp [Block.Inv, Block.LineFits, Block.ResultFits, Block.ProgressFits, Block.PayloadFits, hf, and_assoc]

theorem inv_done_iff (hf : b.fsm = .done) :
    b.Inv ↔ b.line = .driveHigh ∧ b.PayloadFits ∧ b.avail = false ∧ b.pend ≠ .none := by
  simp [Block.Inv, Block.LineFits, Block.ResultFits, Block.ProgressFits, Block.PayloadFits, hf, and_assoc]

/-- A status commits a payload only if it reports one (42_sequencer.md R174). -/
theorem committedPayload_eq_zero {p : Status} (hp : p ≠ .ok ∧ p ≠ .checksumError) (acc : Bytes5) :
    committedPayload p acc = 0#40 := by
  simp [committedPayload, hp]

theorem inv_reset : Block.reset.Inv := by decide

theorem startCapture_keeps_inv {s : State} (hf : s.blk.fsm = .listening) (h : s.blk.Inv) :
    (startCapture s).blk.Inv := by
  obtain ⟨hline, hpay, havail, hpend, -⟩ := (inv_listening_iff hf).1 h
  exact (inv_capture_iff (.inl rfl)).2 ⟨hline, hpay, havail, hpend⟩

theorem resolveFrame_keeps_inv {s : State} (hf : s.blk.fsm = .decoding) (h : s.blk.Inv) :
    (resolveFrame s).blk.Inv := by
  obtain ⟨-, hpay, havail, -⟩ := (inv_capture_iff (.inr hf)).1 h
  exact (inv_done_iff rfl).2 ⟨rfl, hpay, havail, frameStatus_ne_none s.blk⟩

theorem commitDone_keeps_inv {s : State} (hf : s.blk.fsm = .done) (h : s.blk.Inv) : (commitDone s).blk.Inv := by
  obtain ⟨hline, -, -, hpend⟩ := (inv_done_iff hf).1 h
  exact (inv_idle_iff rfl).2 ⟨hline, fun hp => committedPayload_eq_zero hp s.blk.acc, fun _ => hpend⟩

/-- An accepted event keeps (a) to (g): each starts in the state that takes it and establishes what the state it leads
to asks for. -/
theorem effectOf_keeps_inv {s : State} (hy : accepts i s.blk.fsm = true) (h : s.blk.Inv) :
    (effectOf i s).blk.Inv := by
  cases i with
  | nop => exact h
  | cfgWrite idx d => exact h
  | clrFlags m => exact h
  | read => exact (inv_starting_iff rfl).2 ⟨rfl, fun _ => rfl, rfl, rfl, rfl⟩
  | holdElapsed =>
    have hf : s.blk.fsm = .starting := by simpa [accepts] using hy
    obtain ⟨-, hpay, havail, hpend, hcnt⟩ := (inv_starting_iff hf).1 h
    exact (inv_listening_iff rfl).2 ⟨rfl, hpay, havail, hpend, hcnt⟩
  | sample lo hi =>
    have hf : s.blk.fsm = .awaiting := by simpa [accepts] using hy
    have hblk : (effectOf (.sample lo hi) s).blk = _ := sampleEffect_blk lo hi s
    rw [hblk, foldSample_frame]
    exact (inv_capture_iff (.inl rfl)).2 ((inv_capture_iff (.inl hf)).1 h)
  | bufEnd =>
    have hf : s.blk.fsm = .awaiting := by simpa [accepts] using hy
    exact (inv_capture_iff (.inr rfl)).2 ((inv_capture_iff (.inl hf)).1 h)
  | capTimeout =>
    have hf : s.blk.fsm = .awaiting := by simpa [accepts] using hy
    obtain ⟨-, hpay, havail, -⟩ := (inv_capture_iff (.inl hf)).1 h
    exact (inv_done_iff rfl).2 ⟨rfl, hpay, havail, (by decide : Status.timeout ≠ .none)⟩

/-- Settles O40, by the cases of a step: reset, the three transient cycles, the cycles that touch at most a flag, and
the accepted events. -/
theorem everyStepKeepsTheInvariants : Obligations.EveryStepKeepsTheInvariants := by
  unfold Obligations.EveryStepKeepsTheInvariants
  intro s t hinv h
  cases step_cases h with
  | reset _ _ _ ht => subst ht; exact inv_reset
  | listening _ hf _ _ ht => subst ht; exact startCapture_keeps_inv hf hinv
  | decoding _ hf _ _ ht => subst ht; exact resolveFrame_keeps_inv hf hinv
  | done _ hf _ _ ht => subst ht; exact commitDone_keeps_inv hf hinv
  | empty _ _ _ _ _ ht => subst ht; exact hinv
  | illegal _ _ _ _ _ ht => subst ht; exact hinv
  | rejected _ _ _ _ _ _ _ ht => subst ht; exact hinv
  | accepted i _ _ hy _ _ ht => subst ht; exact effectOf_keeps_inv (s := consume (beginCycle s)) hy hinv

/-- Settles O41: the reset block is one fixed state, and both predicates on it are decidable. -/
theorem resetMeetsTheInvariants : Obligations.ResetMeetsTheInvariants := by
  unfold Obligations.ResetMeetsTheInvariants
  exact ⟨inv_reset, by decide⟩

/-- Settles O42: the configuration after a step is the reset one, the old one, or the old one after a register write,
which legalises what it stores. -/
theorem everyStepKeepsTheConfigurationLegal : Obligations.EveryStepKeepsTheConfigurationLegal := by
  unfold Obligations.EveryStepKeepsTheConfigurationLegal
  intro s t hlegal h
  obtain ⟨-, hc⟩ | hc | ⟨idx, d, -, hc⟩ := step_cfg_cases h <;> rw [hc]
  · exact resetMeetsTheInvariants.2
  · exact hlegal
  · exact writeCfg_legal s.blk.cfg idx d hlegal

end Sys2Proof.Machine
end

section
/-! Who writes what: the line, the frame state, `pend` and the result (10_state.md R38 to R42). -/

namespace Sys2Proof.Machine

/-- Settles O34: outside an accepted event only `DECODING` writes the line, and of the events only `READ`,
`HOLD_ELAPSED` and `CAP_TIMEOUT` do. -/
theorem onlyFourTransitionsWriteTheLine : Obligations.OnlyFourTransitionsWriteTheLine := by
  unfold Obligations.OnlyFourTransitionsWriteTheLine
  intro s t hr h hne
  cases step_cases h with
  | decoding _ hf _ _ ht => subst ht; exact .inr (.inr ⟨.inl hf, rfl, rfl⟩)
  | accepted i _ _ _ ha _ ht =>
    subst ht
    cases i with
    | read => exact .inl ⟨ha, rfl⟩
    | holdElapsed => exact .inr (.inl ⟨ha, rfl⟩)
    | capTimeout => exact .inr (.inr ⟨.inr ha, rfl, rfl⟩)
    | _ => exact absurd (by simp [effectOf]) hne
  | _ => simp_all

/-- Settles O35: outside an accepted event no cycle writes the frame state, and of the events only `READ` and `SAMPLE`
do. -/
theorem onlyReadAndSampleWriteTheFrameState : Obligations.OnlyReadAndSampleWriteTheFrameState := by
  unfold Obligations.OnlyReadAndSampleWriteTheFrameState
  intro s t hr h
  refine ⟨fun ha => ?cleared, fun hne => ?written⟩
  case cleared => simp [step_blk_of_read h ha]
  case written =>
    cases step_cases h with
    | accepted i _ _ _ ha _ ht =>
      subst ht
      cases i with
      | read => exact .inl ha
      | sample lo hi => exact .inr ⟨lo, hi, ha⟩
      | _ => exact absurd hne (by simp [effectOf])
    | _ => simp_all

/-- Settles O36: the result is written by `READ` and the `DONE` cycle, `pend` by `READ`, `CAP_TIMEOUT` and the
`DECODING` cycle, by no other event and in no other cycle. -/
theorem onlyReadAndDoneWriteTheResult : Obligations.OnlyReadAndDoneWriteTheResult := by
  unfold Obligations.OnlyReadAndDoneWriteTheResult
  intro s t hr h
  refine ⟨fun ha => ?cleared, fun hne => ?result, fun hne => ?pend⟩
  case cleared => simp [step_blk_of_read h ha]
  case result =>
    cases step_cases h with
    | done _ hf _ _ _ => exact .inr hf
    | accepted i _ _ _ ha _ ht =>
      subst ht
      cases i with
      | read => exact .inl ha
      | _ => exact absurd hne (by simp [effectOf])
    | _ => simp_all
  case pend =>
    cases step_cases h with
    | decoding _ hf _ _ _ => exact .inr (.inr hf)
    | accepted i _ _ _ ha _ ht =>
      subst ht
      cases i with
      | read => exact .inl ha
      | capTimeout => exact .inr (.inl ha)
      | _ => exact absurd (by simp [effectOf]) hne
    | _ => simp_all

end Sys2Proof.Machine
end

section
/-! The sticky flags (10_state.md R43): the equation by which a step writes each, and that nothing else reads them. -/

namespace Sys2Proof.Machine

variable {s t : State} {i : Instr}

/-- The legality check accepts exactly the words that decode to an event (30_encoding.md R86). -/
theorem legal_iff_decode_event (ev : EvWord) : legal ev = true ↔ ∃ i, decode ev = .event i := by
  unfold legal decode decodeBare
  generalize (opField ev).toNat = op
  split <;> (try split_ifs) <;> simp_all [Config.cfgIdxMax]

/-- The inbox presents an illegal word when the word at its head is not legal (42_sequencer.md R162). -/
theorem presented_illegal_iff (s : State) :
    presented s = .illegal ↔ ∃ ev, s.inbox.head? = some (some ev) ∧ legal ev = false := by
  have hword (ev : EvWord) : presentedWord ev = .illegal ↔ legal ev = false := by
    rw [← Bool.not_eq_true, legal_iff_decode_event, presentedWord]
    cases decode ev <;> simp
  unfold presented
  split <;> simp_all

/-- The accepted event, if any, clears the sticky flag of mask bit `k` (43_host_interface.md R194). -/
def clearsFlag (k : Nat) : Option Instr → Bool
  | some (.clrFlags m) => m.getLsbD k
  | _ => false

theorem clearsFlag_iff (k : Nat) (o : Option Instr) :
    clearsFlag k o = true ↔ ∃ m, o = some (.clrFlags m) ∧ m.getLsbD k = true := by
  unfold clearsFlag
  split <;> simp_all

@[simp] theorem clearsFlag_none (k : Nat) : clearsFlag k none = false := rfl

/-- Of the events only `CLR_FLAGS` writes the flags, and it only clears (43_host_interface.md R194). -/
theorem effectOf_flags (i : Instr) (s : State) :
    (effectOf i s).blk.reject = (s.blk.reject && !clearsFlag 0 (some i)) ∧
      (effectOf i s).blk.illegal = (s.blk.illegal && !clearsFlag 1 (some i)) := by
  cases i with
  | clrFlags m => simp [effectOf, clearIf, clearsFlag, Bool.and_comm]
  | _ => simp [effectOf, clearsFlag]

/-- How a step writes `reject` (10_state.md R43, 42_sequencer.md R162). -/
theorem step_reject (hr : s.pinsNow.rst = false) (h : step s = .next t) :
    t.blk.reject = ((s.blk.reject && !clearsFlag 0 (acceptedEvent s)) ||
      ((consumedEvent s).isSome && (acceptedEvent s).isNone)) := by
  cases step_cases h with
  | accepted i _ _ _ ha hc ht => rw [ht, (effectOf_flags i _).1, ha, hc]; simp
  | _ => simp_all

/-- How a step writes `illegal` (10_state.md R43, 42_sequencer.md R162). -/
theorem step_illegal (hr : s.pinsNow.rst = false) (h : step s = .next t) :
    t.blk.illegal = ((s.blk.illegal && !clearsFlag 1 (acceptedEvent s)) ||
      (s.blk.fsm.accepting && decide (presented s = .illegal))) := by
  cases step_cases h with
  | accepted i _ hp _ ha _ ht => rw [ht, (effectOf_flags i _).2, ha, hp]; simp
  | _ => simp_all [Fsm.accepting]

/-- Settles O37: the four clauses read off the two equations of the flags. -/
theorem stickyFlagsAreSetAndClearedOnlyByTheirRules : Obligations.StickyFlagsAreSetAndClearedOnlyByTheirRules := by
  unfold Obligations.StickyFlagsAreSetAndClearedOnlyByTheirRules
  intro s t hr h
  rw [step_reject hr h, step_illegal hr h]
  refine ⟨fun hset hclear => ?rejectCleared, fun hset hclear => ?illegalCleared, fun hclear => ?rejectSet,
    fun hclear => ?illegalSet⟩
  case rejectCleared => exact (clearsFlag_iff 0 _).1 (by simp_all)
  case illegalCleared => exact (clearsFlag_iff 1 _).1 (by simp_all)
  case rejectSet => simp [hclear, Option.isSome_iff_exists]
  case illegalSet => simp [hclear, ← presented_illegal_iff]

/-- The machine with other sticky flags, and another value on its read port. -/
def withFlags (r q : Bool) (x : RegWord) (s : State) : State :=
  { s with blk := { s.blk with reject := r, illegal := q }, out := { s.out with rdData := x } }

/-- An operation that reads the flags and the read port for nothing but themselves. -/
def FlagBlind (f : State → State) : Prop :=
  ∀ (r q : Bool) (x : RegWord) (s : State), ∃ r' q', f (withFlags r q x s) = withFlags r' q' x (f s)

theorem FlagBlind.comp {f g : State → State} (hf : FlagBlind f) (hg : FlagBlind g) : FlagBlind (fun s => f (g s)) := by
  intro r q x s
  obtain ⟨r', q', h⟩ := hg r q x s
  simpa only [h] using hf r' q' x (g s)

theorem flagBlind_id : FlagBlind id := fun r q _ _ => ⟨r, q, rfl⟩
theorem flagBlind_consume : FlagBlind consume := fun r q _ _ => ⟨r, q, rfl⟩
theorem flagBlind_flagReject : FlagBlind flagReject := fun _ q _ _ => ⟨true, q, rfl⟩
theorem flagBlind_flagIllegal : FlagBlind flagIllegal := fun r _ _ _ => ⟨r, true, rfl⟩
theorem flagBlind_resetCycle : FlagBlind resetCycle := fun _ _ _ _ => ⟨false, false, rfl⟩
theorem flagBlind_startCapture : FlagBlind startCapture := fun r q _ _ => ⟨r, q, rfl⟩
theorem flagBlind_resolveFrame : FlagBlind resolveFrame := fun r q _ _ => ⟨r, q, rfl⟩
theorem flagBlind_commitDone : FlagBlind commitDone := fun r q _ _ => ⟨r, q, rfl⟩

/-- A sample is folded in whatever the flags are (41_frame_decoder.md R131). -/
theorem foldSample_flags (lo hi : Duration) (b : Block) (r q : Bool) :
    foldSample lo hi { b with reject := r, illegal := q } =
      { foldSample lo hi b with reject := r, illegal := q } := by
  unfold foldSample takeBit
  dsimp only
  repeat' split
  all_goals rfl

theorem flagBlind_effectOf (i : Instr) : FlagBlind (effectOf i) := by
  intro r q x s
  cases i with
  | clrFlags m => exact ⟨clearIf (m.getLsbD 0) r, clearIf (m.getLsbD 1) q, rfl⟩
  | sample lo hi =>
    refine ⟨r, q, State.eq_of_parts ?_ rfl rfl rfl⟩
    simp [effectOf, withFlags, foldSample_flags]
  | _ => exact ⟨r, q, rfl⟩

/-- A cycle whose body is blind to the flags is blind to them, but for what its read port shows. -/
theorem cycle_withFlags {body : State → State} (hb : FlagBlind body) (r q : Bool) (x : RegWord) (s : State) :
    ∃ r' q', cycle body (withFlags r q x s) =
      withFlags r' q' (regRead { s.blk with reject := r, illegal := q } s.pinsNow.rdIdx) (cycle body s) := by
  have hbegin : beginCycle (withFlags r q x s) =
    withFlags r q (regRead { s.blk with reject := r, illegal := q } s.pinsNow.rdIdx) (beginCycle s) := rfl
  have hpins : (withFlags r q x s).pinsNow = s.pinsNow := rfl
  have hfsm : (withFlags r q x s).blk.fsm = s.blk.fsm := rfl
  unfold cycle
  rw [hbegin, hpins, hfsm]
  split
  · exact flagBlind_resetCycle _ _ _ _
  · split
    · exact flagBlind_startCapture _ _ _ _
    · exact flagBlind_resolveFrame _ _ _ _
    · exact flagBlind_commitDone _ _ _ _
    all_goals exact hb _ _ _ _

/-- A presented event is judged by the sequencer state, not by the flags (42_sequencer.md R162). -/
theorem flagBlind_judgeEvent (i : Instr) (f : Fsm) :
    FlagBlind (fun t => if accepts i f then effectOf i (consume t) else flagReject (consume t)) := by
  cases accepts i f
  · exact flagBlind_flagReject.comp flagBlind_consume
  · exact (flagBlind_effectOf i).comp flagBlind_consume

/-- A step with other flags is the step, but for the flags and what the read port shows (10_state.md R43). -/
theorem step_withFlags (r q : Bool) (x : RegWord) (h : step s = .next t) :
    ∃ r' q', step (withFlags r q x s) =
      .next (withFlags r' q' (regRead { s.blk with reject := r, illegal := q } s.pinsNow.rdIdx) t) := by
  have hpres : presented (withFlags r q x s) = presented s := rfl
  unfold step at h ⊢
  rw [hpres]
  cases hp : presented s with
  | nothing =>
    simp only [hp, Host.Outcome.next.injEq] at h ⊢
    subst h
    exact cycle_withFlags flagBlind_id r q x { s with inbox := s.inbox.tail }
  | illegal =>
    simp only [hp, Host.Outcome.next.injEq] at h ⊢
    subst h
    exact cycle_withFlags (flagBlind_flagIllegal.comp flagBlind_consume) r q x s
  | event i =>
    simp only [hp, exec_wf (wf_of_presented hp), Host.Outcome.next.injEq] at h ⊢
    subst h
    exact cycle_withFlags (flagBlind_judgeEvent i s.blk.fsm) r q x s

/-- Only `STATUS` shows the flags (10_state.md R32). -/
theorem regRead_flags {idx : RegIdx} (hidx : idx ≠ 0xA#4) (b : Block) (r q : Bool) :
    regRead { b with reject := r, illegal := q } idx = regRead b idx := by
  have hn : idx.toNat ≠ 0xA := fun h => hidx (BitVec.eq_of_toNat_eq h)
  unfold regRead
  split <;> try rfl
  exact absurd ‹idx.toNat = 0xA› hn

/-- Settles O38, by `step_withFlags`; the read port shows what it showed unless it reads `STATUS`. -/
theorem stickyFlagsInfluenceNothingElse : Obligations.StickyFlagsInfluenceNothingElse := by
  unfold Obligations.StickyFlagsInfluenceNothingElse
  intro s t r q h
  obtain ⟨r', q', hstep⟩ := step_withFlags r q s.out.rdData h
  refine ⟨r', q', _, hstep, fun hidx => ?_⟩
  rw [regRead_flags hidx, step_rdData h]

end Sys2Proof.Machine
end

section
/-! The registers at reset, and the one element no register shows (10_state.md R21, R40, R47). -/

namespace Sys2Proof.Machine

/-- Settles O1: one fixed state, its thirty elements against the list of 10_state.md R47. -/
theorem resetGivesEveryElementItsValue : Obligations.ResetGivesEveryElementItsValue := by
  unfold Obligations.ResetGivesEveryElementItsValue
  decide

/-- Settles O2: sixteen reads of one fixed block. -/
theorem resetRegisterReads : Obligations.ResetRegisterReads := by
  unfold Obligations.ResetRegisterReads
  decide

/-- Settles O4: none of the sixteen reads has `acc` among its fields. -/
theorem accumulatorIsNotReadable : Obligations.AccumulatorIsNotReadable := by
  unfold Obligations.AccumulatorIsNotReadable
  intro b a idx
  unfold regRead
  split <;> rfl

end Sys2Proof.Machine
end

section
/-! The host's events that start nothing, `NOP`, `CLR_FLAGS` and `CFG_WRITE`, have the same effect twice as once
(20_memory.md R67). -/

namespace Sys2Proof.Machine

variable {s t : State} {i : Instr}

/-- The block after one event presented in an accepting state, whether it is carried out, rejected or illegal
(42_sequencer.md R162). -/
theorem exec_blk (hr : s.pinsNow.rst = false) (hf : s.blk.fsm.accepting = true) (h : exec i s = .next t) :
    t.blk = if i.wf then
        if accepts i s.blk.fsm then (effectOf i s).blk else { s.blk with reject := true }
      else { s.blk with illegal := true } := by
  cases hw : i.wf with
  | false =>
    rw [exec_not_wf hw, presentIllegal_consumed hr hf] at h
    cases h
    rfl
  | true =>
    rw [exec_wf hw] at h
    cases ha : accepts i s.blk.fsm with
    | false =>
      rw [presentEvent_rejected hr hf ha] at h
      cases h
      rfl
    | true =>
      rw [presentEvent_accepted hr ha] at h
      cases h
      cases i <;> rfl

theorem clearIf_clearIf (maskBit flag : Bool) : clearIf maskBit (clearIf maskBit flag) = clearIf maskBit flag := by
  cases maskBit <;> rfl

/-- What a register write stores depends on the written image alone (43_host_interface.md R190). -/
theorem writeCfg_writeCfg (c : CfgRegs) (idx : RegIdx) (d : RegWord) :
    writeCfg (writeCfg c idx d) idx d = writeCfg c idx d := by
  unfold writeCfg
  generalize idx.toNat = n
  split <;> simp_all

/-- A host event other than `READ`. -/
def HostWrite (i : Instr) : Prop := i = .nop ∨ (∃ m, i = .clrFlags m) ∨ ∃ idx d, i = .cfgWrite idx d

theorem effectOf_fsm (hi : HostWrite i) (s : State) : (effectOf i s).blk.fsm = s.blk.fsm := by
  obtain rfl | ⟨m, rfl⟩ | ⟨idx, d, rfl⟩ := hi <;> rfl

/-- Where such an event has just had its effect, its effect changes nothing more. -/
theorem effectOf_blk_again (hi : HostWrite i) (ht : t.blk = (effectOf i s).blk) : (effectOf i t).blk = t.blk := by
  obtain rfl | ⟨m, rfl⟩ | ⟨idx, d, rfl⟩ := hi
  case inl => rfl
  case inr.inl => simp [effectOf, ht, clearIf_clearIf]
  case inr.inr => simp [effectOf, ht, writeCfg_writeCfg]

/-- Settles O39: the event leaves the sequencer state, so it is judged the same way the second time, and each of the
three outcomes writes the block the same way again. -/
theorem hostEventsAreIdempotent : Obligations.HostEventsAreIdempotent := by
  unfold Obligations.HostEventsAreIdempotent
  intro i s t u hi hf hrs hrt hst htu
  have ht := exec_blk hrs hf hst
  have hfsm : t.blk.fsm = s.blk.fsm := by
    rw [ht]
    split_ifs
    · exact effectOf_fsm hi s
    · rfl
    · rfl
  have hu := exec_blk hrt (hfsm ▸ hf) htu
  rw [hfsm] at hu
  refine ⟨?again, ?nop⟩
  case again =>
    rw [hu]
    split_ifs at ht ⊢
    · exact effectOf_blk_again hi ht
    · rw [ht]
    · rw [ht]
  case nop =>
    rintro rfl
    simpa [Instr.wf, accepts, hf, effectOf] using ht

end Sys2Proof.Machine
end

section
/-! Event words as numbers, and the four kinds of word the legality check lets through: each is the packing of its own
fields (30_encoding.md R81, R82). -/

namespace Sys2Proof

variable (ev : EvWord)

theorem opField_toNat : (opField ev).toNat = ev.toNat / 2 ^ 44 := by
  have := ev.isLt
  rw [opField, BitVec.extractLsb'_toNat, Nat.shiftRight_eq_div_pow]
  omega

theorem idxField_toNat : (idxField ev).toNat = ev.toNat / 2 ^ 40 % 2 ^ 4 := by
  rw [idxField, BitVec.extractLsb'_toNat, Nat.shiftRight_eq_div_pow]

/-- A bit field is zero when its digit of the word is. -/
theorem extractLsb'_eq_zero_iff (start len : Nat) :
    ev.extractLsb' start len = 0#len ↔ ev.toNat / 2 ^ start % 2 ^ len = 0 := by
  rw [← BitVec.toNat_inj, BitVec.extractLsb'_toNat, Nat.shiftRight_eq_div_pow]
  simp

theorem zeroField_eq_zero_iff : zeroField ev = 0#8 ↔ ev.toNat / 2 ^ 32 % 2 ^ 8 = 0 :=
  extractLsb'_eq_zero_iff ev 32 8

/-- A word with `ev[39:32]` zero is its `OP`, `IDX` and `DATA`, packed. -/
theorem zeroField_iff_pack : zeroField ev = 0#8 ↔ ev = packWord (opField ev) (idxField ev) (dataField ev) := by
  rw [zeroField_eq_zero_iff, ← BitVec.toNat_inj, packWord_toNat, opField_toNat, idxField_toNat, dataField,
    BitVec.extractLsb'_toNat, Nat.shiftRight_eq_div_pow]
  omega

/-- A word with nothing below `OP` is its `OP`, packed. -/
theorem belowOp_zero_iff_pack : ev.extractLsb' 0 44 = 0#44 ↔ ev = packWord (opField ev) 0#4 0#32 := by
  rw [extractLsb'_eq_zero_iff, ← BitVec.toNat_inj, packWord_toNat, opField_toNat, BitVec.toNat_ofNat,
    BitVec.toNat_ofNat]
  omega

/-- A word with nothing but `MASK` below `OP` is its `OP` and `MASK`, packed. -/
theorem aboveMask_zero_iff_pack :
    ev.extractLsb' 2 42 = 0#42 ↔ ev = packWord (opField ev) 0#4 ((maskField ev).setWidth 32) := by
  rw [extractLsb'_eq_zero_iff, ← BitVec.toNat_inj, packWord_toNat, opField_toNat, BitVec.toNat_ofNat,
    Machine.zext32_toNat _ (by decide), maskField, BitVec.extractLsb'_toNat, Nat.shiftRight_eq_div_pow]
  omega

/-- A word with nothing but `DATA` below `OP` is its `OP`, `HIGH` and `LOW`, packed. -/
theorem aboveData_zero_iff_pack :
    ev.extractLsb' 32 12 = 0#12 ↔ ev = packWord (opField ev) 0#4 (highField ev ++ lowField ev) := by
  rw [extractLsb'_eq_zero_iff, ← BitVec.toNat_inj, packWord_toNat, opField_toNat, BitVec.toNat_ofNat,
    Machine.append_toNat, highField, lowField, BitVec.extractLsb'_toNat, BitVec.extractLsb'_toNat,
    Nat.shiftRight_eq_div_pow, Nat.shiftRight_eq_div_pow]
  omega

variable (op : BitVec 4) (idx : RegIdx)

@[simp] theorem maskField_packWord (mask : BitVec 2) : maskField (packWord op idx (mask.setWidth 32)) = mask := by
  apply BitVec.eq_of_toNat_eq
  have := mask.isLt
  rw [maskField, BitVec.extractLsb'_toNat, packWord_toNat, Machine.zext32_toNat _ (by decide),
    Nat.shiftRight_eq_div_pow]
  omega

@[simp] theorem highField_packWord (low high : Duration) : highField (packWord op idx (high ++ low)) = high := by
  apply BitVec.eq_of_toNat_eq
  have := low.isLt
  have := high.isLt
  rw [highField, BitVec.extractLsb'_toNat, packWord_toNat, Machine.append_toNat, Nat.shiftRight_eq_div_pow]
  omega

@[simp] theorem lowField_packWord (low high : Duration) : lowField (packWord op idx (high ++ low)) = low := by
  apply BitVec.eq_of_toNat_eq
  have := low.isLt
  rw [lowField, BitVec.extractLsb'_toNat, packWord_toNat, Machine.append_toNat, Nat.shiftRight_eq_div_pow]
  omega

end Sys2Proof
end

section
/-! Decoding and encoding are inverse to each other between the legal words and the well-formed events
(30_encoding.md R82, R90). -/

namespace Sys2Proof.Machine

variable {ev : EvWord} {i : Instr}

/-- The encoding of a well-formed event decodes to it (30_encoding.md R82). -/
theorem decode_encode (hw : i.wf = true) : decode (encode i) = .event i := by
  cases i with
  | cfgWrite idx data =>
    have hidx : idx ≤ Config.cfgIdxMax := by simpa [Instr.wf] using hw
    simp [encode, decode, hidx]
  | clrFlags mask => simp [encode, decode, aboveMask_zero_iff_pack]
  | sample low high => simp [encode, decode, aboveData_zero_iff_pack]
  | _ => simp [encode, decode, decodeBare, belowOp_zero_iff_pack]

theorem opField_eq_of_toNat {k : Nat} (h : (opField ev).toNat = k) : opField ev = BitVec.ofNat 4 k := by
  simp [← h]

/-- A word that decodes as an event without operands is its opcode alone (30_encoding.md R82). -/
theorem decodeBare_event {j : Instr} {k : Nat} (hop : (opField ev).toNat = k) (h : decodeBare ev j = .event i) :
    i = j ∧ packWord (BitVec.ofNat 4 k) 0#4 0#32 = ev := by
  unfold decodeBare at h
  split_ifs at h with hz
  cases h
  rw [belowOp_zero_iff_pack, opField_eq_of_toNat hop] at hz
  exact ⟨rfl, hz.symm⟩

/-- A word that decodes to an event is the event's encoding (30_encoding.md R90). -/
theorem encode_of_decode (h : decode ev = .event i) : encode i = ev := by
  unfold decode at h
  split at h
  case h_3 hop =>
    split_ifs at h with hz hidx
    cases h
    rw [zeroField_iff_pack, opField_eq_of_toNat hop] at hz
    exact hz.symm
  case h_4 hop =>
    split_ifs at h with hz
    cases h
    rw [aboveMask_zero_iff_pack, opField_eq_of_toNat hop] at hz
    exact hz.symm
  case h_6 hop =>
    split_ifs at h with hz
    cases h
    rw [aboveData_zero_iff_pack, opField_eq_of_toNat hop] at hz
    exact hz.symm
  case h_9 => cases h
  all_goals
    rename_i hop
    obtain ⟨rfl, hev⟩ := decodeBare_event hop h
    exact hev

/-- Settles O8: the fields of a packed word are the fields it was packed from. -/
theorem decodeOfEncodeIsTheEvent : Obligations.DecodeOfEncodeIsTheEvent := by
  unfold Obligations.DecodeOfEncodeIsTheEvent
  exact fun i hw => decode_encode hw

/-- Settles O9: a word whose must-be-zero bits are zero is the packing of its own fields. -/
theorem encodeOfDecodeIsTheWord : Obligations.EncodeOfDecodeIsTheWord := by
  unfold Obligations.EncodeOfDecodeIsTheWord
  exact fun ev i h => ⟨wf_of_decode h, encode_of_decode h⟩

/-- Settles O12: eleven fixed words. -/
theorem wordsWrittenFromTheMapDecode : Obligations.WordsWrittenFromTheMapDecode := by
  unfold Obligations.WordsWrittenFromTheMapDecode
  decide

end Sys2Proof.Machine
end

section
/-! The legality check in numbers, and what a consumed illegal word does (30_encoding.md R84 to R86). -/

namespace Sys2Proof.Machine

variable {s : State}

/-- `legal(ev)` by opcode and must-be-zero bits, as numbers (30_encoding.md R86). -/
theorem legal_iff_toNat (ev : EvWord) :
    legal ev = true ↔
      let op := ev.toNat / 2 ^ 44
      ((op = 0 ∨ op = 1 ∨ op = 4 ∨ op = 6 ∨ op = 7) ∧ ev.toNat % 2 ^ 44 = 0) ∨
      (op = 2 ∧ ev.toNat / 2 ^ 32 % 2 ^ 8 = 0 ∧ ev.toNat / 2 ^ 40 % 2 ^ 4 ≤ 9) ∨
      (op = 3 ∧ ev.toNat / 2 ^ 2 % 2 ^ 42 = 0) ∨
      (op = 5 ∧ ev.toNat / 2 ^ 32 % 2 ^ 12 = 0) := by
  have hidx : idxField ev ≤ 9#4 ↔ ev.toNat / 2 ^ 40 % 2 ^ 4 ≤ 9 := by rw [BitVec.le_def, idxField_toNat]; rfl
  unfold legal
  rw [opField_toNat]
  generalize ev.toNat / 2 ^ 44 = op
  split
  case h_9 => simp_all
  all_goals simp [extractLsb'_eq_zero_iff, zeroField_eq_zero_iff, hidx]

/-- Settles O10: the check in numbers, and that it accepts what decoding accepts. -/
theorem decodingAcceptsExactlyTheLegalWords : Obligations.DecodingAcceptsExactlyTheLegalWords := by
  unfold Obligations.DecodingAcceptsExactlyTheLegalWords
  exact fun ev => ⟨legal_iff_toNat ev, (legal_iff_decode_event ev).symm⟩

/-- A consumed word that is not legal sets `illegal` and does nothing else (30_encoding.md R84, R85). -/
theorem step_of_not_legal {ev : EvWord} {rest : List (Option EvWord)} (hr : s.pinsNow.rst = false)
    (hf : s.blk.fsm.accepting = true) (hin : s.inbox = some ev :: rest) (hl : legal ev = false) :
    step s = .next (afterConsumed s { s.blk with illegal := true }) := by
  have hp : presented s = .illegal := (presented_illegal_iff s).2 ⟨ev, by simp [hin], hl⟩
  unfold step
  rw [hp]
  simp only [presentIllegal_consumed hr hf]
  rfl

/-- Settles O15: each of the listed words fails the legality check. -/
theorem illegalWordOnlySetsIllegal : Obligations.IllegalWordOnlySetsIllegal := by
  unfold Obligations.IllegalWordOnlySetsIllegal
  intro s ev rest hr hf hin hbad
  have hl : legal ev = false := by
    rw [← Bool.not_eq_true, legal_iff_toNat]
    generalize ev.toNat / 2 ^ 44 = op at *
    simp only
    omega
  exact step_of_not_legal hr hf hin hl

end Sys2Proof.Machine
end

section
/-! The rows of the match and mask table: their opcodes differ, so a word selects at most one, and the encoding of an
event selects the event's (30_encoding.md R82, R90). -/

namespace Sys2Proof.Machine

variable {r r' : OpcodeRow} {ev : EvWord}

theorem opField_and (a b : EvWord) : opField (a &&& b) = opField a &&& opField b := by
  simp [opField, BitVec.extractLsb'_and]

/-- Every row's mask covers the whole of `OP`. -/
theorem opField_mask (hr : r ∈ opcodeRows) : opField r.mask = BitVec.allOnes 4 := by
  revert r
  decide

theorem opField_of_selects (hr : r ∈ opcodeRows) (h : r.selects ev = true) : opField r.val = opField ev := by
  have hval : ev &&& r.mask = r.val := by simpa [OpcodeRow.selects] using h
  rw [← hval, opField_and, opField_mask hr, BitVec.and_allOnes]

theorem opcodeRows_opField_nodup : (opcodeRows.map fun r => opField r.val).Nodup := by decide

/-- No word selects two rows (30_encoding.md R90). -/
theorem row_unique (hr : r ∈ opcodeRows) (hr' : r' ∈ opcodeRows) (h : r.selects ev = true)
    (h' : r'.selects ev = true) : r = r' :=
  List.inj_on_of_nodup_map opcodeRows_opField_nodup hr hr'
    ((opField_of_selects hr h).trans (opField_of_selects hr' h').symm)

/-- The encoding of every event selects the event's own row (30_encoding.md R82). -/
theorem encode_selects_row : ∀ i : Instr, Laws.EncodeSelectsRow.Statement i
  | .nop => Laws.EncodeSelectsRow.nop
  | .read => Laws.EncodeSelectsRow.read
  | .cfgWrite idx data => Laws.EncodeSelectsRow.cfgWrite idx data
  | .clrFlags mask => Laws.EncodeSelectsRow.clrFlags mask
  | .holdElapsed => Laws.EncodeSelectsRow.holdElapsed
  | .sample low high => Laws.EncodeSelectsRow.sample low high
  | .bufEnd => Laws.EncodeSelectsRow.bufEnd
  | .capTimeout => Laws.EncodeSelectsRow.capTimeout

/-- Settles O11: a word that decodes is its event's encoding and so selects the event's row; rows of different opcodes
share no word. -/
theorem everyWordIsOneRowOrIllegal : Obligations.EveryWordIsOneRowOrIllegal := by
  unfold Obligations.EveryWordIsOneRowOrIllegal
  refine ⟨fun ev => ?oneRow, ?disjoint⟩
  case oneRow =>
    have hlegal := legal_iff_decode_event ev
    cases hd : decode ev with
    | event i =>
      obtain ⟨r, hr, hname, hsel⟩ := encode_selects_row i
      rw [encode_of_decode hd] at hsel
      exact .inl ⟨hlegal.2 ⟨i, hd⟩, r, hr, hsel, fun r' hr' hsel' => row_unique hr' hr hsel' hsel, i, rfl, hname.symm⟩
    | illegal why => exact .inr ⟨by simpa [hd] using hlegal, why, rfl⟩
  case disjoint =>
    refine (List.pairwise_map.1 opcodeRows_opField_nodup).imp_of_mem fun hr hr' hne => ⟨hne, fun ev h => ?_⟩
    exact hne ((opField_of_selects hr h.1).trans (opField_of_selects hr' h.2).symm)

end Sys2Proof.Machine
end

section
/-! The assembler emits encodings of well-formed events, and the words R88 and R89 list (30_encoding.md). -/

namespace Sys2Proof.Machine

/-- Every word of an inbox schedule is legal; empty cycles hold no word. -/
def AllLegal (ws : List (Option EvWord)) : Prop := ∀ ev, some ev ∈ ws → legal ev = true

theorem allLegal_append {ws vs : List (Option EvWord)} (hw : AllLegal ws) (hv : AllLegal vs) : AllLegal (ws ++ vs) :=
  fun ev h => (List.mem_append.1 h).elim (hw ev) (hv ev)

theorem legal_encode {i : Instr} (hw : i.wf = true) : legal (encode i) = true :=
  (legal_iff_decode_event _).2 ⟨i, decode_encode hw⟩

theorem allLegal_encode {i : Instr} (hw : i.wf = true) : AllLegal [some (encode i)] := by
  simpa [AllLegal] using legal_encode hw

/-- A fixed list of words is checked by evaluation. -/
theorem allLegal_of_all {ws : List (Option EvWord)} (h : ws.all (·.all legal) = true) : AllLegal ws :=
  fun ev hev => List.all_eq_true.1 h (some ev) hev

theorem wf_cfgWrite_ofNat {reg : Nat} (h : reg ≤ 9) (d : RegWord) :
    (Instr.cfgWrite (BitVec.ofNat 4 reg) d).wf = true := by
  simp only [Instr.wf, Config.cfgIdxMax, BitVec.le_def, BitVec.toNat_ofNat, decide_eq_true_eq]
  omega

theorem allLegal_replicate_none (n : Nat) : AllLegal (List.replicate n none) := by
  simp [AllLegal]

theorem bitWord_eq_encode (b : Bool) : bitWord b = encode (.sample 50#16 (if b then 70#16 else 26#16)) := by
  cases b <;> rfl

theorem allLegal_byteWords (b : Nat) : AllLegal (byteWords b) := by
  intro ev h
  obtain ⟨k, -, hk⟩ := List.mem_map.1 h
  cases hk
  rw [bitWord_eq_encode]
  exact legal_encode rfl

theorem frame41Words_eq_some {bs : List Nat} {ws : List (Option EvWord)} :
    frame41Words bs = some ws ↔ (∀ b ∈ bs, b < 256) ∧ ws = some ackWord :: bs.flatMap byteWords := by
  simp only [frame41Words, List.all_eq_true, decide_eq_true_eq, Option.ite_none_right_eq_some, Option.some.injEq,
    @eq_comm _ ws]

theorem allLegal_frame41Words {bs : List Nat} {ws : List (Option EvWord)} (h : frame41Words bs = some ws) :
    AllLegal ws := by
  obtain ⟨-, rfl⟩ := frame41Words_eq_some.1 h
  refine allLegal_append (allLegal_encode (i := .sample 80#16 80#16) rfl) fun ev hev => ?_
  obtain ⟨b, -, hb⟩ := List.mem_flatMap.1 hev
  exact allLegal_byteWords b ev hb

/-- No line gives an illegal word (30_encoding.md R88). -/
theorem allLegal_assembleLine {l : AsmLine} {ws : List (Option EvWord)} (h : assembleLine l = some ws) :
    AllLegal ws := by
  cases l with
  | cfg reg value =>
    simp only [assembleLine, asmCfg] at h
    split_ifs at h with hfit
    cases h
    exact allLegal_encode (wf_cfgWrite_ofNat hfit.1 _)
  | clrflags mask =>
    simp only [assembleLine] at h
    split_ifs at h
    cases h
    exact allLegal_encode rfl
  | sample low high =>
    simp only [assembleLine, asmSample] at h
    split_ifs at h
    cases h
    exact allLegal_encode rfl
  | idle n => cases h; exact allLegal_replicate_none n
  | byte b =>
    simp only [assembleLine] at h
    split_ifs at h
    cases h
    exact allLegal_byteWords b
  | frame b0 b1 b2 b3 b4 =>
    obtain ⟨vs, hvs, rfl⟩ := Option.map_eq_some_iff.1 h
    exact allLegal_append (allLegal_frame41Words hvs) (allLegal_encode rfl)
  | frame41 b0 b1 b2 b3 b4 => exact allLegal_frame41Words h
  | _ => cases h; exact allLegal_of_all (by decide)

/-- No program gives an illegal word (30_encoding.md R88). -/
theorem allLegal_assemble {ls : List AsmLine} {ws : List (Option EvWord)} (h : assemble ls = some ws) :
    AllLegal ws := by
  induction ls generalizing ws with
  | nil => cases h; exact fun ev hev => absurd hev List.not_mem_nil
  | cons l ls ih =>
    unfold assemble at h
    split at h
    case h_1 vs rest hl hls =>
      cases h
      exact allLegal_append (allLegal_assembleLine hl) (ih hls)
    case h_2 => cases h

/-- The word of a `cfg` line, as a number (30_encoding.md R88). -/
theorem encode_cfgWrite_ofNat {reg value : Nat} (hr : reg ≤ 9) (hv : value < 2 ^ 32) :
    encode (.cfgWrite (BitVec.ofNat 4 reg) (BitVec.ofNat 32 value)) =
      BitVec.ofNat 48 (2 * 2 ^ 44 + reg * 2 ^ 40 + value) := by
  apply BitVec.eq_of_toNat_eq
  simp only [encode, packWord_toNat, BitVec.toNat_ofNat]
  omega

/-- The word of a `sample` line, as a number (30_encoding.md R88). -/
theorem encode_sample_ofNat {low high : Nat} (hl : low < 2 ^ 16) (hh : high < 2 ^ 16) :
    encode (.sample (BitVec.ofNat 16 low) (BitVec.ofNat 16 high)) =
      BitVec.ofNat 48 (5 * 2 ^ 44 + high * 2 ^ 16 + low) := by
  apply BitVec.eq_of_toNat_eq
  simp only [encode, packWord_toNat, append_toNat, BitVec.toNat_ofNat]
  omega

/-- The word of a `clrflags` line, as a number (30_encoding.md R88). -/
theorem encode_clrFlags_ofNat {m : Nat} (hm : m < 4) :
    encode (.clrFlags (BitVec.ofNat 2 m)) = BitVec.ofNat 48 (3 * 2 ^ 44 + m) := by
  apply BitVec.eq_of_toNat_eq
  simp only [encode, packWord_toNat, BitVec.toNat_setWidth, BitVec.toNat_ofNat]
  omega

/-- Settles O59: every line gives encodings of well-formed events, and the words of the lines with operands are those
encodings as numbers. -/
theorem assemblerEmitsOnlyLegalWords : Obligations.AssemblerEmitsOnlyLegalWords := by
  unfold Obligations.AssemblerEmitsOnlyLegalWords
  refine ⟨fun ls ws ev h => allLegal_assemble h ev, fun reg value => ?cfg, fun low high => ?sample, fun m => ?clrflags,
    rfl, rfl, rfl, rfl, rfl, fun n => rfl⟩
  case cfg => exact ite_congr rfl (fun hfit => by rw [encode_cfgWrite_ofNat hfit.1 hfit.2]) fun _ => rfl
  case sample => exact ite_congr rfl (fun hfit => by rw [encode_sample_ofNat hfit.1 hfit.2]) fun _ => rfl
  case clrflags => exact ite_congr rfl (fun hfit => by rw [encode_clrFlags_ofNat hfit]) fun _ => rfl

/-- `byte b` has the word of bit `7 - k` in place `k` (30_encoding.md R89). -/
theorem byteWords_getElem? (b : Nat) {k : Nat} (hk : k < 8) :
    (byteWords b)[k]? = some (some (bitWord (b.testBit (7 - k)))) := by
  have hbit : [7, 6, 5, 4, 3, 2, 1, 0][k]? = some (7 - k) := by decide +revert
  simp only [byteWords, List.getElem?_map, hbit, Option.map_some]

theorem assembleLine_byte {b : Nat} (h : b < 256) : assembleLine (.byte b) = some (byteWords b) := if_pos h

/-- Settles O60: fixed words for the lines without operands; a byte's words by place, a frame's by its bytes. -/
theorem pseudoInstructionsExpandAsListed : Obligations.PseudoInstructionsExpandAsListed := by
  unfold Obligations.PseudoInstructionsExpandAsListed
  refine ⟨rfl, rfl, rfl, rfl, rfl, rfl, rfl, fun b hb => ?byte, fun b0 b1 b2 b3 b4 h0 h1 h2 h3 h4 => ?frame⟩
  case byte => exact ⟨byteWords b, assembleLine_byte hb, rfl, fun k hk => byteWords_getElem? b hk⟩
  case frame =>
    have hframe : assembleLine (.frame41 b0 b1 b2 b3 b4) =
        some (some ackWord :: [b0, b1, b2, b3, b4].flatMap byteWords) :=
      frame41Words_eq_some.2 ⟨by simp [h0, h1, h2, h3, h4], rfl⟩
    refine ⟨byteWords b0, byteWords b1, byteWords b2, byteWords b3, byteWords b4, _, assembleLine_byte h0,
      assembleLine_byte h1, assembleLine_byte h2, assembleLine_byte h3, assembleLine_byte h4, rfl, rfl, hframe, ?_⟩
    exact congrArg (Option.map (· ++ [some releaseWord])) hframe

end Sys2Proof.Machine
end

section
/-! 40_pulse_classifier.md: what the comparators decide, in exact arithmetic on the operands. -/

namespace Sys2Proof.Machine

variable {c : CfgRegs} {lo hi : Duration}

/-! ### Normalisation and 17-bit arithmetic -/

/-- Saturation keeps the product within 16 bits, so no bit is lost (40_pulse_classifier.md R100). -/
theorem norm_toNat (c : CfgRegs) (raw : Duration) :
    (norm c raw).toNat = min (raw.toNat * c.tickMul.toNat) 0xFFFF := by
  have hfits : min (raw.toNat * c.tickMul.toNat) 0xFFFF < 2 ^ 16 := by omega
  exact Nat.mod_eq_of_lt hfits

/-- Settles O43: the saturated product is the number of the word. -/
theorem normalisationSaturates : Obligations.NormalisationSaturates := norm_toNat

/-- Two durations add without a carry out of 17 bits (40_pulse_classifier.md R101, R107). -/
theorem zext17_add_toNat (a b : Duration) : (zext17 a + zext17 b).toNat = a.toNat + b.toNat := by
  have ha := a.isLt
  have hb := b.isLt
  rw [BitVec.toNat_add, zext17_toNat, zext17_toNat, Nat.mod_eq_of_lt (by omega)]

/-! ### Policy WINDOW -/

/-- `d` lies within `tol` of `t`, in integers, both bounds inclusive (40_pulse_classifier.md R101). -/
def WithinTol (d t tol : Duration) : Prop :=
  (t.toNat : Int) - tol.toNat ≤ d.toNat ∧ (d.toNat : Int) ≤ t.toNat + tol.toNat

theorem win_iff (d t tol : Duration) : win d t tol = true ↔ WithinTol d t tol := by
  simp only [win, WithinTol, Bool.and_eq_true, decide_eq_true_eq, BitVec.le_def, zext17_add_toNat, zext17_toNat]
  omega

/-- Settles O44: neither sum of the 17-bit test wraps, and moving `tol` across the lower bound gives the interval. -/
theorem windowIsTheIntegerInterval : Obligations.WindowIsTheIntegerInterval := win_iff

/-- The low half is always checked, the high half unless its target is the sentinel (40_pulse_classifier.md R102,
R103). -/
theorem pulseMatches_iff (lo hi tLo tHi tol : Duration) :
    pulseMatches lo hi tLo tHi tol = true ↔ WithinTol lo tLo tol ∧ (tHi = 0xFFFF#16 ∨ WithinTol hi tHi tol) := by
  simp only [pulseMatches, Bool.and_eq_true, Bool.or_eq_true, beq_iff_eq, win_iff, Config.dontCare]

/-- Which branch a two-test choice between distinct values took. -/
theorem ite_ite_eq_iff {α : Type} {p q : Prop} [Decidable p] [Decidable q] {x y z : α}
    (hxy : x ≠ y) (hxz : x ≠ z) (hyz : y ≠ z) :
    ((if p then x else if q then y else z) = x ↔ p) ∧
    ((if p then x else if q then y else z) = y ↔ ¬ p ∧ q) ∧
    ((if p then x else if q then y else z) = z ↔ ¬ p ∧ ¬ q) := by
  by_cases hp : p
  · simp [hp, hxy, hxz]
  · by_cases hq : q
    · simp [hp, hq, hxy.symm, hyz]
    · simp [hp, hq, hxz.symm, hyz.symm]

/-- The bit-0 window is tested first (40_pulse_classifier.md R104). -/
theorem clsWin_eq_iff (c : CfgRegs) (lo hi : Duration) :
    (clsWin c lo hi = .bit0 ↔ pulseMatches lo hi c.bit0Low c.bit0High c.bitTol = true) ∧
    (clsWin c lo hi = .bit1 ↔ ¬ pulseMatches lo hi c.bit0Low c.bit0High c.bitTol = true ∧
      pulseMatches lo hi c.bit1Low c.bit1High c.bitTol = true) ∧
    (clsWin c lo hi = .err ↔ ¬ pulseMatches lo hi c.bit0Low c.bit0High c.bitTol = true ∧
      ¬ pulseMatches lo hi c.bit1Low c.bit1High c.bitTol = true) :=
  ite_ite_eq_iff (by decide) (by decide) (by decide)

/-- Settles O45: every result of policy WINDOW is a choice between matches, and a match is the integer test. -/
theorem windowPolicyClassifies : Obligations.WindowPolicyClassifies := by
  unfold Obligations.WindowPolicyClassifies
  intro c lo hi near fits
  have hfits (tLo tHi tol : Duration) : pulseMatches lo hi tLo tHi tol = true ↔ fits tLo tHi tol :=
    pulseMatches_iff lo hi tLo tHi tol
  obtain ⟨hbit0, hbit1, herr⟩ := clsWin_eq_iff c lo hi
  simp only [hfits] at hbit0 hbit1 herr
  exact ⟨hfits, hfits c.ackLow c.ackHigh c.ackTol, hbit0, hbit1, herr⟩

/-! ### Policy SUM -/

/-- The pulse width is exact (40_pulse_classifier.md R107). -/
theorem sum17_toNat (lo hi : Duration) : (sum17 lo hi).toNat = lo.toNat + hi.toNat := zext17_add_toNat lo hi

theorem sum17_lt_zext17_iff (lo hi v : Duration) : sum17 lo hi < zext17 v ↔ lo.toNat + hi.toNat < v.toNat := by
  rw [BitVec.lt_def, sum17_toNat, zext17_toNat]

theorem zext17_lt_sum17_iff (lo hi v : Duration) : zext17 v < sum17 lo hi ↔ v.toNat < lo.toNat + hi.toNat := by
  rw [BitVec.lt_def, sum17_toNat, zext17_toNat]

/-- Neither below the least sum nor above the greatest: both bounds pass (40_pulse_classifier.md R106). -/
theorem ackSum_iff (c : CfgRegs) (lo hi : Duration) :
    ackSum c lo hi = true ↔
      c.sumAckMin.toNat ≤ lo.toNat + hi.toNat ∧ lo.toNat + hi.toNat ≤ c.sumAckMax.toNat := by
  simp only [ackSum, Bool.not_eq_true', Bool.or_eq_false_iff, decide_eq_false_iff_not, sum17_lt_zext17_iff,
    zext17_lt_sum17_iff, not_lt]

/-- The low breakpoint is tested first, and a sum at either breakpoint is beyond neither (40_pulse_classifier.md R108). -/
theorem clsSum_eq_iff (c : CfgRegs) (lo hi : Duration) :
    (clsSum c lo hi = .err ↔ lo.toNat + hi.toNat < c.sumBitLo.toNat) ∧
    (clsSum c lo hi = .bit1 ↔
      c.sumBitLo.toNat ≤ lo.toNat + hi.toNat ∧ c.sumBitHi.toNat < lo.toNat + hi.toNat) ∧
    (clsSum c lo hi = .bit0 ↔
      c.sumBitLo.toNat ≤ lo.toNat + hi.toNat ∧ lo.toNat + hi.toNat ≤ c.sumBitHi.toNat) := by
  simp only [← not_lt, ← sum17_lt_zext17_iff, ← zext17_lt_sum17_iff]
  exact ite_ite_eq_iff (by decide) (by decide) (by decide)

/-- Settles O46: the comparisons of policy SUM are those of the exact sum. -/
theorem sumPolicyClassifies : Obligations.SumPolicyClassifies := by
  unfold Obligations.SumPolicyClassifies
  intro c lo hi sum
  exact ⟨sum17_toNat lo hi, ackSum_iff c lo hi, clsSum_eq_iff c lo hi⟩

/-! ### Policy selection -/

theorem classifyAck_of_window (h : c.policy = .window) :
    classifyAck c lo hi = ackWin c (norm c lo) (norm c hi) := by
  simp only [classifyAck, h]

theorem classifyAck_of_sum (h : c.policy = .sum) : classifyAck c lo hi = ackSum c (norm c lo) (norm c hi) := by
  simp only [classifyAck, h]

theorem classifyBit_of_window (h : c.policy = .window) :
    classifyBit c lo hi = clsWin c (norm c lo) (norm c hi) := by
  simp only [classifyBit, h]

theorem classifyBit_of_sum (h : c.policy = .sum) : classifyBit c lo hi = clsSum c (norm c lo) (norm c hi) := by
  simp only [classifyBit, h]

/-- Settles O47: the policy's code is its bit; the fields a policy's classifiers do not read can hold anything. -/
theorem policySelectsTheClassifier : Obligations.PolicySelectsTheClassifier := by
  unfold Obligations.PolicySelectsTheClassifier
  intro c lo hi
  refine ⟨?ack, ?bit, fun _ _ _ _ => ⟨rfl, rfl⟩, fun hsum _ _ _ _ _ _ _ _ => ?windowFields,
    fun hwin _ _ _ _ => ?sumFields⟩
  case ack =>
    cases hp : c.policy with
    | window => exact classifyAck_of_window hp
    | sum => exact classifyAck_of_sum hp
  case bit =>
    cases hp : c.policy with
    | window => exact classifyBit_of_window hp
    | sum => exact classifyBit_of_sum hp
  case windowFields =>
    rw [classifyAck_of_sum hsum, classifyBit_of_sum hsum]
    exact ⟨classifyAck_of_sum hsum, classifyBit_of_sum hsum⟩
  case sumFields =>
    rw [classifyAck_of_window hwin, classifyBit_of_window hwin]
    exact ⟨classifyAck_of_window hwin, classifyBit_of_window hwin⟩

end Sys2Proof.Machine
end

section
/-! The events of 41_frame_decoder.md: which word each is, and the whole next state it answers. -/

namespace Sys2Proof.Machine

variable {s : State} {i : Instr} {lo hi : Duration} {b : Block}

/-- An event the state takes has its effect on the consumed inbox (42_sequencer.md R162). -/
theorem exec_accepted (hw : i.wf = true) (hr : s.pinsNow.rst = false) (hy : accepts i s.blk.fsm = true) :
    exec i s = .next (effectOf i (consume (beginCycle s))) := by
  rw [exec_wf hw, presentEvent_accepted hr hy]

/-- An event the state does not take sets `reject` and does nothing else (42_sequencer.md R162). -/
theorem exec_rejected (hw : i.wf = true) (hr : s.pinsNow.rst = false) (hf : s.blk.fsm.accepting = true)
    (hn : accepts i s.blk.fsm = false) : exec i s = .next (afterConsumed s { s.blk with reject := true }) := by
  rw [exec_wf hw, presentEvent_rejected hr hf hn]
  rfl

/-- A capture event is taken in `AWAITING` only, so `IDLE` and `STARTING` reject it (41_frame_decoder.md R131, R135). -/
theorem exec_rejected_before_capture (hw : i.wf = true) (ha : ∀ f, accepts i f = (f == .awaiting))
    (hr : s.pinsNow.rst = false) (hf : s.blk.fsm = .idle ∨ s.blk.fsm = .starting) :
    exec i s = .next (afterConsumed s { s.blk with reject := true }) := by
  obtain hf | hf := hf
  · exact exec_rejected hw hr (by rw [hf]; rfl) (by rw [ha, hf]; rfl)
  · exact exec_rejected hw hr (by rw [hf]; rfl) (by rw [ha, hf]; rfl)

/-- Settles O24: the effect of `BUF_END` writes `fsm` alone. -/
theorem bufEndStartsDecoding : Obligations.BufEndStartsDecoding := by
  unfold Obligations.BufEndStartsDecoding
  refine ⟨by decide, fun s hr => ⟨fun hf => ?awaiting, exec_rejected_before_capture rfl (fun _ => rfl) hr⟩⟩
  case awaiting => exact exec_accepted rfl hr (by simp [accepts, hf])

/-- `SAMPLE` is opcode 5 with `HIGH` above `LOW` (30_encoding.md R81, R82). -/
theorem encode_sample_toNat (lo hi : Duration) :
    (encode (.sample lo hi)).toNat = 5 * 2 ^ 44 + hi.toNat * 2 ^ 16 + lo.toNat := by
  rw [encode, packWord_toNat, append_toNat, BitVec.toNat_ofNat, BitVec.toNat_ofNat]
  omega

/-! ### What a sample writes, by its index (41_frame_decoder.md R131) -/

@[simp] theorem foldSample_fsm (lo hi : Duration) (b : Block) : (foldSample lo hi b).fsm = b.fsm := by
  rw [foldSample_frame]

/-- The acknowledgement pulse writes `ack_ok` only (41_frame_decoder.md R132). -/
theorem foldSample_ack (hc : b.cnt.toNat = 0) :
    foldSample lo hi b = { b with ackOk := classifyAck b.cfg lo hi } :=
  if_pos (BitVec.eq_of_toNat_eq hc)

theorem foldSample_data (h1 : 1 ≤ b.cnt.toNat) (h40 : b.cnt.toNat ≤ 40) : foldSample lo hi b = takeBit lo hi b := by
  have hne : b.cnt ≠ 0#8 := fun h => by simp [h] at h1
  simp [foldSample, hne, Config.dataBits, h40]

/-- Samples with index 41 and above are not examined (41_frame_decoder.md R134). -/
theorem foldSample_late (hc : 41 ≤ b.cnt.toNat) : foldSample lo hi b = b := by
  have hne : b.cnt ≠ 0#8 := fun h => by simp [h] at hc
  have hlate : ¬ b.cnt.toNat ≤ Config.dataBits := Nat.not_le.2 hc
  simp [foldSample, hne, hlate]

/-- After the first failure nothing is classified. -/
theorem takeBit_after_error (he : b.bitErr = true) : takeBit lo hi b = b := if_pos he

theorem takeBit_of_err (he : b.bitErr = false) (hk : classifyBit b.cfg lo hi = .err) :
    takeBit lo hi b = { b with bitErr := true } := by
  simp [takeBit, he, hk]

/-- A classified bit is shifted in. -/
theorem takeBit_of_classified (he : b.bitErr = false) (hk : classifyBit b.cfg lo hi ≠ .err) :
    takeBit lo hi b = { b with acc := shiftIn b.acc (decide (classifyBit b.cfg lo hi = .bit1)) } := by
  cases hbit : classifyBit b.cfg lo hi with
  | bit0 => simp [takeBit, he, hbit]
  | bit1 => simp [takeBit, he, hbit]
  | err => exact absurd hbit hk

/-- Past the acknowledgement pulse `ack_ok` is settled (41_frame_decoder.md R132). -/
theorem takeBit_ackOk (lo hi : Duration) (b : Block) : (takeBit lo hi b).ackOk = b.ackOk := by
  unfold takeBit
  repeat' split
  all_goals rfl

theorem foldSample_ackOk (h1 : 1 ≤ b.cnt.toNat) : (foldSample lo hi b).ackOk = b.ackOk := by
  by_cases h40 : b.cnt.toNat ≤ 40
  · rw [foldSample_data h1 h40, takeBit_ackOk]
  · rw [foldSample_late (by omega)]

/-- The whole next state of an accepted `SAMPLE` (41_frame_decoder.md R131). -/
theorem exec_sample_awaiting (hr : s.pinsNow.rst = false) (hf : s.blk.fsm = .awaiting) :
    exec (.sample lo hi) s =
      .next (afterConsumed s { foldSample lo hi s.blk with cnt := countUp s.blk.cnt }) := by
  rw [exec_accepted rfl hr (by simp [accepts, hf])]
  have hfsm : (foldSample lo hi s.blk).fsm = .awaiting := by rw [foldSample_fsm, hf]
  simp only [effectOf, sampleEffect, afterConsumed, ← hfsm]
  rfl

/-- Settles O25: the block but for its count is `foldSample` of the old one, which the sample's index decides. -/
theorem sampleIsFoldedByItsIndex : Obligations.SampleIsFoldedByItsIndex := by
  unfold Obligations.SampleIsFoldedByItsIndex
  refine ⟨encode_sample_toNat, fun s lo hi hr => ⟨fun hf => ?awaiting,
    exec_rejected_before_capture rfl (fun _ => rfl) hr⟩⟩
  case awaiting =>
    refine ⟨foldSample lo hi s.blk, ?next, foldSample_ack,
      fun ⟨h1, h40, he⟩ => ⟨fun hk => ?err, fun hk => ?bit⟩, ?other⟩
    case next => rw [exec_sample_awaiting hr hf, countUp_eq]
    case err => rw [foldSample_data h1 h40, takeBit_of_err he hk]
    case bit =>
      have hbit : (decide (classifyBit s.blk.cfg lo hi = .bit1)).toNat =
          if classifyBit s.blk.cfg lo hi = .bit1 then 1 else 0 := apply_ite Bool.toNat _ true false
      rw [foldSample_data h1 h40, takeBit_of_classified he hk, shiftIn_eq, hbit]
    case other =>
      rintro (hlate | ⟨h1, he⟩)
      · exact foldSample_late hlate
      · by_cases h40 : s.blk.cnt.toNat ≤ 40
        · rw [foldSample_data h1 h40, takeBit_after_error he]
        · exact foldSample_late (by omega)

end Sys2Proof.Machine
end

section
/-! The checksum, and the cycles of the transient states (41_frame_decoder.md R136 to R138, 42_sequencer.md R170,
R174). -/

namespace Sys2Proof.Machine

variable {s : State}

/-- The four bytes are added modulo 256 (41_frame_decoder.md R138). -/
theorem chk_toNat (a : Bytes5) :
    (chk a).toNat = ((payloadByte a 0).toNat + (payloadByte a 1).toNat + (payloadByte a 2).toNat +
      (payloadByte a 3).toNat) % 256 := by
  simp only [chk, BitVec.toNat_add]
  omega

theorem chkPass_iff (a : Bytes5) : chkPass a = true ↔ (payloadByte a 4).toNat = (chk a).toNat := by
  rw [chkPass, beq_iff_eq, BitVec.toNat_inj]

/-- Settles O50: the sum in numbers, with each byte as the digit it is. -/
theorem checksumIsTheSumOfTheDataBytes : Obligations.ChecksumIsTheSumOfTheDataBytes := by
  unfold Obligations.ChecksumIsTheSumOfTheDataBytes
  intro a byte
  have hbyte (k : Nat) : (payloadByte a k).toNat = byte k := payloadByte_toNat a k
  simp only [chkPass_iff, chk_toNat, hbyte, and_self]

/-! ### The transient cycles, whatever the inbox presents -/

theorem step_listening (hr : s.pinsNow.rst = false) (hf : s.blk.fsm = .listening) :
    step s = .next (afterHeld s { s.blk with fsm := .awaiting }
      { idleOutputs s.blk s.pinsNow with capStart := true, capTimeoutMs := s.blk.cfg.captoMs }) := by
  rw [step_held (.inr (by rw [hf]; rfl)), cycle_listening (s := held s) hr hf]
  rfl

theorem step_done (hr : s.pinsNow.rst = false) (hf : s.blk.fsm = .done) :
    step s = .next (afterHeld s
      { s.blk with
        resultCode := s.blk.pend, payload := committedPayload s.blk.pend s.blk.acc, avail := true, fsm := .idle }
      { idleOutputs s.blk s.pinsNow with
        done := true, doneCode := s.blk.pend.code, donePayload := committedPayload s.blk.pend s.blk.acc }) := by
  rw [step_held (.inr (by rw [hf]; rfl)), cycle_done (s := held s) hr hf]
  rfl

theorem step_decoding (hr : s.pinsNow.rst = false) (hf : s.blk.fsm = .decoding) :
    step s = .next (afterHeld s { s.blk with pend := frameStatus s.blk, line := .driveHigh, fsm := .done }
      { idleOutputs s.blk s.pinsNow with capRelease := true }) := by
  rw [step_held (.inr (by rw [hf]; rfl)), cycle_decoding (s := held s) hr hf]
  rfl

/-- Settles O29: `frameStatus` is the stated chain of tests, each read as a number. -/
theorem decodingResolvesTheStatus : Obligations.DecodingResolvesTheStatus := by
  unfold Obligations.DecodingResolvesTheStatus
  intro s hr hf byte status
  have hchk : chkPass s.blk.acc = false ↔ byte 4 ≠ (byte 0 + byte 1 + byte 2 + byte 3) % 256 := by
    rw [← Bool.not_eq_true, (checksumIsTheSumOfTheDataBytes s.blk.acc).2]
  have hstatus : frameStatus s.blk = status := by
    simp only [frameStatus, status, BitVec.lt_def, hchk]
  rw [step_decoding hr hf, hstatus]

end Sys2Proof.Machine
end

section
/-! The loop of the reference function over the data samples (41_frame_decoder.md R130), and the bit order it gives
(R133). -/

namespace Sys2Proof.Machine

variable {c : CfgRegs} {lo hi : Duration} {rest : List (Duration × Duration)} {a r : Bytes5}

theorem decodeBits_cons_of_err (hk : classifyBit c lo hi = .err) : decodeBits c ((lo, hi) :: rest) a = none := by
  simp [decodeBits, hk]

theorem decodeBits_cons_of_classified (hk : classifyBit c lo hi ≠ .err) :
    decodeBits c ((lo, hi) :: rest) a = decodeBits c rest (shiftIn a (decide (classifyBit c lo hi = .bit1))) := by
  cases hbit : classifyBit c lo hi with
  | bit0 => simp [decodeBits, hbit]
  | bit1 => simp [decodeBits, hbit]
  | err => exact absurd hbit hk

/-- Where the loop gives a result, its first sample classified. -/
theorem decodeBits_cons_eq_some (h : decodeBits c ((lo, hi) :: rest) a = some r) :
    decodeBits c rest (shiftIn a (decide (classifyBit c lo hi = .bit1))) = some r := by
  by_cases hk : classifyBit c lo hi = .err
  · simp [decodeBits_cons_of_err hk] at h
  · rwa [decodeBits_cons_of_classified hk] at h

/-- The loop may stop between two samples and go on from the bits gathered. -/
theorem decodeBits_append (xs ys : List (Duration × Duration)) (a : Bytes5) :
    decodeBits c (xs ++ ys) a = (decodeBits c xs a).bind (decodeBits c ys) := by
  induction xs generalizing a with
  | nil => rfl
  | cons x xs ih =>
    by_cases hk : classifyBit c x.1 x.2 = .err
    · rw [List.cons_append, decodeBits_cons_of_err hk, decodeBits_cons_of_err hk]
      rfl
    · rw [List.cons_append, decodeBits_cons_of_classified hk, decodeBits_cons_of_classified hk, ih]

/-- Each later bit moves the bits already gathered up one place (41_frame_decoder.md R133). -/
theorem decodeBits_getLsbD_gathered (xs : List (Duration × Duration)) (h : decodeBits c xs a = some r) (k : Nat)
    (hk : k + xs.length < 40) : r.getLsbD (k + xs.length) = a.getLsbD k := by
  induction xs generalizing a k with
  | nil => simp_all [decodeBits]
  | cons x xs ih =>
    have hk' : k + 1 + xs.length < 40 := by rw [List.length_cons] at hk; omega
    have hup := ih (decodeBits_cons_eq_some h) (k + 1) hk'
    rw [shiftIn_getLsbD, if_neg (by omega)] at hup
    simpa [show k + (xs.length + 1) = k + 1 + xs.length by omega, show k + 1 < 40 by omega] using hup

/-- A data sample's bit is as far up as there are samples after it (41_frame_decoder.md R133). -/
theorem decodeBits_getLsbD_sample (xs : List (Duration × Duration)) (h : decodeBits c xs a = some r)
    (hlen : xs.length ≤ 40) (j : Nat) (hj : xs[j]? = some (lo, hi)) :
    r.getLsbD (xs.length - 1 - j) = decide (classifyBit c lo hi = .bit1) := by
  induction xs generalizing a j with
  | nil => simp at hj
  | cons x xs ih =>
    have hrest := decodeBits_cons_eq_some h
    cases j with
    | zero =>
      obtain rfl : x = (lo, hi) := by simpa using hj
      have hbit := decodeBits_getLsbD_gathered xs hrest 0 (by rw [List.length_cons] at hlen; omega)
      rw [Nat.zero_add, shiftIn_getLsbD, if_pos rfl] at hbit
      simpa using hbit
    | succ j =>
      have hbit := ih hrest (by rw [List.length_cons] at hlen; omega) j (by simpa using hj)
      simpa [show xs.length - (j + 1) = xs.length - 1 - j by omega] using hbit

/-- Byte 0 is on top (10_state.md R34). -/
theorem payloadByte_getLsbD (v : Bytes5) (k j : Nat) (hj : j < 8) :
    (payloadByte v k).getLsbD j = v.getLsbD (32 - 8 * k + j) := by
  simp [payloadByte, hj]

/-- Settles O49: `40 - i` samples come after sample `i`, and bit `40 - i` is the stated bit of its byte. -/
theorem dataBitsAreMostSignificantFirst : Obligations.DataBitsAreMostSignificantFirst := by
  unfold Obligations.DataBitsAreMostSignificantFirst
  intro c samples a hlen h i lo hi hi1 hsample
  have hi40 : i - 1 < samples.length := (List.getElem?_eq_some_iff.1 hsample).1
  have hbit := decodeBits_getLsbD_sample samples h hlen.le (i - 1) hsample
  rw [hlen, show 40 - 1 - (i - 1) = 40 - i by omega] at hbit
  refine ⟨hbit, ?_⟩
  rw [payloadByte_getLsbD _ _ _ (by omega), show 32 - 8 * ((i - 1) / 8) + (7 - (i - 1) % 8) = 40 - i by omega, hbit]

end Sys2Proof.Machine
end

section
/-! The streaming decoder is the reference function (41_frame_decoder.md R139): the frame state holds, after every
sample, what the reference function has of the samples so far, and `DECODING` and `DONE` read its answer off. -/

namespace Sys2Proof.Machine

variable {c : CfgRegs} {buf : List (Duration × Duration)} {lo hi : Duration} {b : Block} {s t u : State} {i : Instr}

/-! ### The frame state after some samples -/

/-- The data bits of the frame so far, none after a failure: what the loop of the reference function holds. -/
def Block.gathered (b : Block) : Option Bytes5 := if b.bitErr then none else some b.acc

theorem gathered_of_error (he : b.bitErr = true) : b.gathered = none := by simp [Block.gathered, he]

theorem gathered_of_no_error (he : b.bitErr = false) : b.gathered = some b.acc := by simp [Block.gathered, he]

/-- A data sample is one turn of the loop (41_frame_decoder.md R130, R131). -/
theorem gathered_takeBit (lo hi : Duration) (b : Block) :
    (takeBit lo hi b).gathered = b.gathered.bind (decodeBits b.cfg [(lo, hi)]) := by
  cases he : b.bitErr with
  | true => rw [takeBit_after_error he, gathered_of_error he, Option.bind_none]
  | false =>
    rw [gathered_of_no_error he, Option.bind_some]
    by_cases hk : classifyBit b.cfg lo hi = .err
    · rw [takeBit_of_err he hk, decodeBits_cons_of_err hk, gathered_of_error rfl]
    · rw [takeBit_of_classified he hk, decodeBits_cons_of_classified hk]
      exact gathered_of_no_error he

/-- The block's frame state is that of a read cycle under `c` that has accepted the samples `buf`. -/
structure HoldsFrame (c : CfgRegs) (buf : List (Duration × Duration)) (b : Block) : Prop where
  cfg : b.cfg = c
  cnt : b.cnt.toNat = min buf.length 255
  ack : ∀ p ∈ buf.head?, b.ackOk = classifyAck c p.1 p.2
  bits : b.gathered = decodeBits c (buf.tail.take Config.dataBits) 0#40

/-- `READ` clears the frame state (42_sequencer.md R163). -/
theorem holdsFrame_nil (hcfg : b.cfg = c) (hcnt : b.cnt = 0#8) (herr : b.bitErr = false) (hacc : b.acc = 0#40) :
    HoldsFrame c [] b where
  cfg := hcfg
  cnt := by simp [hcnt]
  ack := by simp
  bits := by rw [gathered_of_no_error herr, hacc]; rfl

/-- Sample 1 to 40 is one more turn of the loop; a later one is beyond what the loop takes (41_frame_decoder.md R131,
R134). -/
theorem gathered_foldSample {rest : List (Duration × Duration)}
    (hcnt : b.cnt.toNat = min (rest.length + 1) 255)
    (hbits : b.gathered = decodeBits b.cfg (rest.take Config.dataBits) 0#40) :
    (foldSample lo hi b).gathered = decodeBits b.cfg ((rest ++ [(lo, hi)]).take Config.dataBits) 0#40 := by
  by_cases hdata : rest.length < Config.dataBits
  · have hlt : rest.length < 40 := hdata
    rw [foldSample_data (by omega) (by omega), gathered_takeBit, hbits, List.take_of_length_le hdata.le,
      List.take_of_length_le (by simpa using hdata), decodeBits_append]
  · have hge : 40 ≤ rest.length := Nat.not_lt.1 hdata
    rw [foldSample_late (by omega), hbits, List.take_append_of_le_length (Nat.not_lt.1 hdata)]

/-- An accepted sample extends the frame by itself: the first decides `ack_ok`, a later one leaves it (41_frame_decoder.md
R131, R132). -/
theorem HoldsFrame.after_sample (h : HoldsFrame c buf b) (lo hi : Duration) :
    HoldsFrame c (buf ++ [(lo, hi)]) { foldSample lo hi b with cnt := countUp b.cnt, fsm := .awaiting } := by
  obtain ⟨rfl, hcnt, hack, hbits⟩ := h
  have hcount : (countUp b.cnt).toNat = min (buf ++ [(lo, hi)]).length 255 := by
    rw [countUp_toNat, hcnt, List.length_append, List.length_singleton]
    omega
  cases buf with
  | nil =>
    have h0 : b.cnt.toNat = 0 := hcnt
    rw [foldSample_ack h0]
    exact ⟨rfl, hcount, by simp, hbits⟩
  | cons p rest =>
    have h1 : 1 ≤ b.cnt.toNat := by rw [List.length_cons] at hcnt; omega
    have hturn : (foldSample lo hi b).gathered = decodeBits b.cfg ((rest ++ [(lo, hi)]).take Config.dataBits) 0#40 :=
      gathered_foldSample hcnt hbits
    exact ⟨foldSample_cfg lo hi b, hcount, by simpa [foldSample_ackOk h1] using hack, hturn⟩

/-- What `DECODING` resolves and `DONE` commits is the reference function's answer. A legal `len_max` is below the
count's saturation, so no length is judged wrongly (41_frame_decoder.md R139). -/
theorem HoldsFrame.decode (h : HoldsFrame c buf b) (hl : c.Legal) :
    (frameStatus b, committedPayload (frameStatus b) b.acc) = decodeFrame c buf := by
  obtain ⟨rfl, hcnt, hack, hbits⟩ := h
  obtain ⟨-, hminLow, -, -, hmaxHigh, -⟩ := hl
  have hmin : 41 ≤ b.cfg.lenMin.toNat := hminLow
  have hmax : b.cfg.lenMax.toNat ≤ 254 := hmaxHigh
  have hmin' := b.cfg.lenMin.isLt
  have hshort : b.cnt < b.cfg.lenMin ↔ buf.length < b.cfg.lenMin.toNat := by rw [BitVec.lt_def, hcnt]; omega
  have hlong : b.cfg.lenMax < b.cnt ↔ b.cfg.lenMax.toNat < buf.length := by rw [BitVec.lt_def, hcnt]; omega
  simp only [frameStatus, decodeFrame, hshort, hlong]
  by_cases hunder : buf.length < b.cfg.lenMin.toNat
  · simp only [if_pos hunder]
    rfl
  by_cases hover : b.cfg.lenMax.toNat < buf.length
  · simp only [if_neg hunder, if_pos hover]
    rfl
  simp only [if_neg hunder, if_neg hover]
  cases buf with
  | nil => exact absurd hunder (by simp; omega)
  | cons p rest =>
    rw [hack p rfl]
    rw [List.tail_cons] at hbits
    simp only [← hbits]
    cases classifyAck b.cfg p.1 p.2 with
    | false => rfl
    | true =>
      cases he : b.bitErr with
      | true => rw [gathered_of_error he]; rfl
      | false =>
        rw [gathered_of_no_error he]
        cases hchk : chkPass b.acc <;> simp [hchk, committedPayload]

/-! ### One step of a read cycle -/

/-- Every step answers a next state (60_exceptions.md R223). -/
theorem step_next (s : State) : ∃ t, step s = .next t := by
  unfold step
  cases presented s with
  | nothing => exact ⟨_, rfl⟩
  | illegal => exact ⟨_, rfl⟩
  | event i =>
    cases hw : i.wf with
    | true => exact ⟨_, exec_wf hw⟩
    | false => exact ⟨_, exec_not_wf hw⟩

theorem acceptedEvent_eq_some_iff :
    acceptedEvent s = some i ↔ s.pinsNow.rst = false ∧ presented s = .event i ∧ accepts i s.blk.fsm = true := by
  constructor
  case mp =>
    intro ha
    obtain ⟨t, hs⟩ := step_next s
    cases step_cases hs with
    | accepted j hr hp hy ha' _ _ =>
      obtain rfl : j = i := by simpa [ha'] using ha
      exact ⟨hr, hp, hy⟩
    | _ => simp_all
  case mpr =>
    rintro ⟨hr, hp, hy⟩
    simp [acceptedEvent, consumedEvent_accepting hr (accepting_of_accepts hy), hp, hy]

/-- The step that accepts an event is its effect on the consumed inbox (42_sequencer.md R162). -/
theorem step_accepted (ha : acceptedEvent s = some i) : step s = .next (effectOf i (consume (beginCycle s))) := by
  obtain ⟨hr, hp, hy⟩ := acceptedEvent_eq_some_iff.1 ha
  unfold step
  rw [hp]
  exact exec_accepted (wf_of_presented hp) hr hy

theorem accepts_of_acceptedEvent (ha : acceptedEvent s = some i) : accepts i s.blk.fsm = true :=
  (acceptedEvent_eq_some_iff.1 ha).2.2

theorem sampleTaken_of_sample (ha : acceptedEvent s = some (.sample lo hi)) : sampleTaken s = [(lo, hi)] := by
  simp [sampleTaken, ha]

theorem sampleTaken_of_no_sample (ha : ∀ lo hi, acceptedEvent s ≠ some (.sample lo hi)) : sampleTaken s = [] := by
  unfold sampleTaken
  split
  · exact absurd ‹_› (ha _ _)
  · rfl

theorem fsm_eq_idle_of_accepted_read (ha : acceptedEvent s = some .read) : s.blk.fsm = .idle := by
  simpa [accepts] using accepts_of_acceptedEvent ha

/-- Outside `IDLE` the configuration stays (43_host_interface.md R191). -/
theorem step_cfg_of_not_idle (hr : s.pinsNow.rst = false) (hf : s.blk.fsm ≠ .idle) (hs : step s = .next t) :
    t.blk.cfg = s.blk.cfg := by
  obtain ⟨hrst, -⟩ | hkept | ⟨idx, d, ha, -⟩ := step_cfg_cases hs
  · simp [hr] at hrst
  · exact hkept
  · exact absurd (by simpa [accepts] using accepts_of_acceptedEvent ha) hf

/-- A step outside `IDLE` extends the frame by the sample it accepts, if it accepts one. -/
theorem HoldsFrame.after_step (h : HoldsFrame c buf s.blk) (hr : s.pinsNow.rst = false) (hf : s.blk.fsm ≠ .idle)
    (hs : step s = .next t) : HoldsFrame c (buf ++ sampleTaken s) t.blk := by
  by_cases hsample : ∃ lo hi, acceptedEvent s = some (.sample lo hi)
  · obtain ⟨lo, hi, ha⟩ := hsample
    rw [step_accepted ha] at hs
    cases hs
    rw [sampleTaken_of_sample ha]
    exact h.after_sample lo hi
  · have hno (hne : t.blk.cnt ≠ s.blk.cnt ∨ t.blk.ackOk ≠ s.blk.ackOk ∨ t.blk.bitErr ≠ s.blk.bitErr ∨
        t.blk.acc ≠ s.blk.acc) : False :=
      ((onlyReadAndSampleWriteTheFrameState s t hr hs).2 hne).elim
        (fun ha => hf (fsm_eq_idle_of_accepted_read ha)) hsample
    simp only [imp_false, not_or, not_not] at hno
    obtain ⟨hcnt, hack, herr, hacc⟩ := hno
    rw [sampleTaken_of_no_sample (by simpa using hsample), List.append_nil]
    exact ⟨by rw [step_cfg_of_not_idle hr hf hs, h.cfg], by rw [hcnt, h.cnt], by rw [hack]; exact h.ack,
      by rw [Block.gathered, herr, hacc]; exact h.bits⟩

/-! ### A run with no further `READ` -/

theorem run_succ_next {k : Nat} (h : run (k + 1) s = .next u) : ∃ t, step s = .next t ∧ run k t = .next u := by
  obtain ⟨t, hs⟩ := step_next s
  exact ⟨t, hs, by rwa [run_succ hs] at h⟩

/-- Without a further `READ` the first step accepts none, nor does the rest of the run. -/
theorem no_read_of_readsAccepted_succ {k : Nat} (hs : step s = .next t) (h : readsAccepted (k + 1) s = 0) :
    acceptedEvent s ≠ some .read ∧ readsAccepted k t = 0 := by
  simpa [readsAccepted, hs] using h

theorem samplesAccepted_succ (hs : step s = .next t) (k : Nat) :
    samplesAccepted (k + 1) s = sampleTaken s ++ samplesAccepted k t := by
  simp [samplesAccepted, hs]

/-- Only `READ` leaves `IDLE` (42_sequencer.md R176). -/
theorem step_stays_idle (hr : s.pinsNow.rst = false) (hf : s.blk.fsm = .idle) (ha : acceptedEvent s ≠ some .read)
    (hs : step s = .next t) : t.blk.fsm = .idle := by
  cases step_cases hs with
  | accepted i _ _ hy hi _ ht =>
    subst ht
    rw [hf] at hy
    cases i with
    | read => exact absurd hi ha
    | holdElapsed => cases hy
    | sample lo hi => cases hy
    | bufEnd => cases hy
    | capTimeout => cases hy
    | _ => exact hf
  | _ => simp_all

theorem run_stays_idle (k : Nat) (hn : s.noReset) (hf : s.blk.fsm = .idle) (hreads : readsAccepted k s = 0)
    (hrun : run k s = .next t) : t.blk.fsm = .idle := by
  induction k generalizing s with
  | zero => cases hrun; exact hf
  | succ k ih =>
    obtain ⟨s₁, hs, hrest⟩ := run_succ_next hrun
    obtain ⟨hread, hreads₁⟩ := no_read_of_readsAccepted_succ hs hreads
    exact ih (noReset_step hn hs) (step_stays_idle (rst_of_noReset hn) hf hread hs) hreads₁ hrest

/-- As long as the read cycle lasts, the frame state holds the samples accepted in it. -/
theorem HoldsFrame.after_run (k : Nat) (h : HoldsFrame c buf s.blk) (hn : s.noReset) (hreads : readsAccepted k s = 0)
    (hrun : run k s = .next t) (hf : t.blk.fsm ≠ .idle) : HoldsFrame c (buf ++ samplesAccepted k s) t.blk := by
  induction k generalizing s buf with
  | zero =>
    cases hrun
    rwa [samplesAccepted, List.append_nil]
  | succ k ih =>
    have hbusy : s.blk.fsm ≠ .idle := fun hidle => hf (run_stays_idle (k + 1) hn hidle hreads hrun)
    obtain ⟨s₁, hs, hrest⟩ := run_succ_next hrun
    obtain ⟨-, hreads₁⟩ := no_read_of_readsAccepted_succ hs hreads
    rw [samplesAccepted_succ hs, ← List.append_assoc]
    exact ih (h.after_step (rst_of_noReset hn) hbusy hs) (noReset_step hn hs) hreads₁ hrest

/-! ### The report -/

/-- The ports and registers report what the reference function gives for `buf`, and the block is idle again. -/
def Reports (c : CfgRegs) (buf : List (Duration × Duration)) (u : State) : Prop :=
  (u.blk.pend, u.blk.payload) = decodeFrame c buf ∧
    u.blk.resultCode = u.blk.pend ∧ u.blk.avail = true ∧ u.blk.fsm = .idle ∧ u.blk.line = .driveHigh ∧
    u.out.done = true ∧ u.out.doneCode = u.blk.pend.code ∧ u.out.donePayload = u.blk.payload ∧ u.blk.cfg = c

theorem Reports.done_strobe (h : Reports c buf u) : u.out.done = true := by
  obtain ⟨-, -, -, -, -, hdone, -⟩ := h
  exact hdone

/-- `k` cycles without a `done` strobe lead from `s` to `t`. -/
def QuietRun (k : Nat) (s t : State) : Prop := run k s = .next t ∧ doneStrobes k s = 0

theorem quietRun_zero (s : State) : QuietRun 0 s s := ⟨rfl, rfl⟩

theorem quietRun_step (hs : step s = .next t) (ho : t.out.done = false) : QuietRun 1 s t :=
  ⟨by rw [run_succ hs]; rfl, by simp [doneStrobes, hs, ho]⟩

theorem QuietRun.trans {j k : Nat} (h : QuietRun j s t) (h' : QuietRun k t u) : QuietRun (j + k) s u :=
  ⟨by rw [run_add j k h.1, h'.1], by rw [doneStrobes_add j k h.1, h.2, h'.2]⟩

/-- A strobe after quiet cycles is the only one. -/
theorem QuietRun.strobe {k : Nat} (h : QuietRun k s t) (hs : step t = .next u) (ho : u.out.done = true) :
    run (k + 1) s = .next u ∧ doneStrobes (k + 1) s = 1 :=
  ⟨by rw [run_add k 1 h.1, run_succ hs]; rfl, by rw [doneStrobes_add k 1 h.1, h.2]; simp [doneStrobes, hs, ho]⟩

/-- From an accepted `BUF_END` the second cycle after it reports the frame (41_frame_decoder.md R136, 42_sequencer.md
R174). -/
theorem HoldsFrame.report (h : HoldsFrame c buf s.blk) (hl : c.Legal) (hn : s.noReset)
    (ha : acceptedEvent s = some .bufEnd) :
    ∃ t u, QuietRun 2 s t ∧ step t = .next u ∧ Reports c buf u ∧
      u.inbox = heldInbox (heldInbox s.inbox.tail) := by
  have hs := step_accepted ha
  have hn₁ := noReset_step hn hs
  have hs₁ := step_decoding (rst_of_noReset hn₁) rfl
  have hn₂ := noReset_step hn₁ hs₁
  have hs₂ := step_done (rst_of_noReset hn₂) rfl
  exact ⟨_, _, (quietRun_step hs rfl).trans (quietRun_step hs₁ rfl), hs₂,
    ⟨h.decode hl, rfl, rfl, rfl, rfl, rfl, rfl, rfl, h.cfg⟩, rfl⟩

/-- Settles O51: `READ` leaves the frame state of no samples, every step of the read cycle extends it by what it
accepts, and from `BUF_END` it is reported. -/
theorem streamingDecoderEqualsTheReference : Obligations.StreamingDecoderEqualsTheReference := by
  unfold Obligations.StreamingDecoderEqualsTheReference
  intro s s' t k hn hl hread hs hrun hreads hend
  have hn' := noReset_step hn hs
  have hstart : HoldsFrame s.blk.cfg [] s'.blk := by
    rw [step_blk_of_read hs hread]
    exact holdsFrame_nil rfl rfl rfl rfl
  have hbusy : t.blk.fsm ≠ .idle := fun hidle => by
    simpa [hidle, accepts] using accepts_of_acceptedEvent hend
  have hframe := hstart.after_run k hn' hreads hrun hbusy
  obtain ⟨v, u, hquiet, hdone, hreport, -⟩ := hframe.report hl (noReset_run k hn' hrun) hend
  exact ⟨u, (hquiet.strobe hdone hreport.done_strobe).1, hreport⟩

end Sys2Proof.Machine
end

section
/-! A read cycle presented back to back (70_reset_and_hazards.md R274): each word is accepted in the cycle it is
presented in. -/

namespace Sys2Proof.Machine

variable {c : CfgRegs} {pre buf : List (Duration × Duration)} {s t : State} {i : Instr} {rest : List (Option EvWord)}

/-- An encoded event at the head of the inbox is accepted where the state takes it. -/
theorem acceptedEvent_of_encode (hw : i.wf = true) (hr : s.pinsNow.rst = false) (hy : accepts i s.blk.fsm = true)
    (hin : s.inbox = some (encode i) :: rest) : acceptedEvent s = some i :=
  acceptedEvent_eq_some_iff.2 ⟨hr, by simp [presented, hin, presentedWord, decode_encode hw], hy⟩

/-- No event strobes `done` (42_sequencer.md R161). -/
theorem effectOf_done (i : Instr) (s : State) : (effectOf i s).out.done = s.out.done := by
  cases i <;> rfl

/-- Accepting the event at the head of the inbox, forwards. -/
theorem quietRun_encode (hw : i.wf = true) (hr : s.pinsNow.rst = false) (hy : accepts i s.blk.fsm = true)
    (hin : s.inbox = some (encode i) :: rest) :
    QuietRun 1 s (effectOf i (consume (beginCycle s))) ∧
      (effectOf i (consume (beginCycle s))).inbox = rest := by
  refine ⟨quietRun_step (step_accepted (acceptedEvent_of_encode hw hr hy hin)) ?_, ?_⟩
  · rw [effectOf_done]; rfl
  · rw [effectOf_inbox, consume_inbox, beginCycle_inbox, hin, List.tail_cons]

/-- `READ`, `HOLD_ELAPSED` and the `LISTENING` cycle lead from `IDLE` to `AWAITING` with an empty frame. -/
theorem quietRun_to_awaiting (hn : s.noReset) (hf : s.blk.fsm = .idle)
    (hin : s.inbox = some (encode .read) :: some (encode .holdElapsed) :: rest) :
    ∃ t, QuietRun 3 s t ∧ t.blk.fsm = .awaiting ∧ HoldsFrame s.blk.cfg [] t.blk ∧ t.inbox = heldInbox rest := by
  obtain ⟨hread, hin₁⟩ := quietRun_encode rfl (rst_of_noReset hn) (by simp [accepts, hf]) hin
  have hn₁ := noReset_run 1 hn hread.1
  obtain ⟨hhold, hin₂⟩ := quietRun_encode rfl (rst_of_noReset hn₁) rfl hin₁
  have hn₂ := noReset_run 1 hn₁ hhold.1
  have hlisten := quietRun_step (step_listening (rst_of_noReset hn₂) rfl) rfl
  exact ⟨_, (hread.trans hhold).trans hlisten, rfl, holdsFrame_nil rfl rfl rfl rfl, congrArg heldInbox hin₂⟩

/-- The words of a buffer's samples. -/
def sampleWords (buf : List (Duration × Duration)) : List (Option EvWord) :=
  buf.map fun p => some (encode (.sample p.1 p.2))

/-- Samples presented back to back in `AWAITING` are folded in, one a cycle. -/
theorem quietRun_samples (hn : s.noReset) (hf : s.blk.fsm = .awaiting) (h : HoldsFrame c pre s.blk)
    (hin : s.inbox = sampleWords buf ++ rest) :
    ∃ t, QuietRun buf.length s t ∧ t.blk.fsm = .awaiting ∧ HoldsFrame c (pre ++ buf) t.blk ∧ t.inbox = rest := by
  induction buf generalizing s pre with
  | nil => exact ⟨s, quietRun_zero s, hf, by rwa [List.append_nil], hin⟩
  | cons p buf ih =>
    obtain ⟨hsample, hin₁⟩ :=
      quietRun_encode (i := .sample p.1 p.2) rfl (rst_of_noReset hn) (by simp [accepts, hf]) hin
    obtain ⟨t, hquiet, hft, hframe, hint⟩ :=
      ih (noReset_run 1 hn hsample.1) rfl (h.after_sample p.1 p.2) hin₁
    exact ⟨t, by simpa [Nat.add_comm] using hsample.trans hquiet, hft, by simpa using hframe, hint⟩

/-- Settles O52: three cycles to `AWAITING`, one a sample, one for `BUF_END`, one `DECODING`, one `DONE`. -/
theorem backToBackReadCycleReportsOnce : Obligations.BackToBackReadCycleReportsOnce := by
  unfold Obligations.BackToBackReadCycleReportsOnce
  intro s buf rest hn hf hl hin
  have hin' : s.inbox = some (encode .read) :: some (encode .holdElapsed) ::
      (sampleWords buf ++ some (encode .bufEnd) :: rest) := by
    simp [hin, readCycle, sampleWords]
  have hheld : heldInbox (sampleWords buf ++ some (encode .bufEnd) :: rest) =
      sampleWords buf ++ some (encode .bufEnd) :: rest := by
    cases buf <;> rfl
  obtain ⟨s₁, hstart, hf₁, hframe₁, hin₁⟩ := quietRun_to_awaiting hn hf hin'
  rw [hheld] at hin₁
  have hn₁ := noReset_run 3 hn hstart.1
  obtain ⟨s₂, hsamples, hf₂, hframe₂, hin₂⟩ := quietRun_samples hn₁ hf₁ hframe₁ hin₁
  have hn₂ := noReset_run buf.length hn₁ hsamples.1
  have hend := acceptedEvent_of_encode rfl (rst_of_noReset hn₂) (by simp [accepts, hf₂]) hin₂
  obtain ⟨s₃, t, hdecode, hdone, hreport, hint⟩ := hframe₂.report hl hn₂ hend
  obtain ⟨hdec, hcode, havail, hidle, hline, hout, hoc, hop, hcfg⟩ := hreport
  obtain ⟨hrun, honce⟩ := ((hstart.trans hsamples).trans hdecode).strobe hdone hout
  rw [show 3 + buf.length + 2 + 1 = buf.length + 6 by omega] at hrun honce
  rw [List.nil_append] at hdec
  rw [hin₂, List.tail_cons] at hint
  exact ⟨t, hrun, hdec, hcode, havail, hidle, hline, hout, by rw [hoc, ← hdec], by rw [hop, ← hdec], hcfg, hint, honce⟩

end Sys2Proof.Machine
end

section
/-! What the inbox presents in a cycle, and the cycles of the accepting states: an empty inbox, the acceptance check, and
the sequencer's events (42_sequencer.md R160 to R167). -/

namespace Sys2Proof.Machine

variable {s : State} {i : Instr} {f : Fsm} {ev : EvWord} {rest : List (Option EvWord)}

/-- The accepting states (00_scope.md R13). -/
theorem accepting_eq (f : Fsm) : f.accepting = (f == .idle || f == .starting || f == .awaiting) := by
  cases f <;> rfl

theorem accepting_iff : f.accepting = true ↔ f = .idle ∨ f = .starting ∨ f = .awaiting := by
  simp [accepting_eq, or_assoc]

/-- A word that decodes is presented as its event (42_sequencer.md R162). -/
theorem presented_of_decode (hin : s.inbox = some ev :: rest) (hd : decode ev = .event i) : presented s = .event i := by
  simp [presented, hin, presentedWord, hd]

theorem step_of_presented (hp : presented s = .event i) : step s = exec i s := by
  simp [step, hp]

/-- A cycle that presents nothing to an accepting state (42_sequencer.md R160). -/
theorem step_empty (hr : s.pinsNow.rst = false) (hf : s.blk.fsm.accepting = true) (hp : presented s = .nothing) :
    step s = .next { afterConsumed s s.blk with out := idleOutputs s.blk s.pinsNow } := by
  unfold step
  rw [hp]
  exact congrArg Host.Outcome.next (cycle_accepting (s := { s with inbox := s.inbox.tail }) hr hf)

/-- The state takes the event. -/
theorem exec_accepted_in (hw : i.wf = true) (hr : s.pinsNow.rst = false) (hf : s.blk.fsm = f)
    (hy : accepts i f = true) : exec i s = .next (effectOf i (consume (beginCycle s))) :=
  exec_accepted hw hr (hf ▸ hy)

/-- The accepting state does not take the event. -/
theorem exec_rejected_in (hw : i.wf = true) (hr : s.pinsNow.rst = false) (hf : s.blk.fsm = f)
    (ha : f.accepting = true) (hn : accepts i f = false) :
    exec i s = .next (afterConsumed s { s.blk with reject := true }) :=
  exec_rejected hw hr (hf ▸ ha) (hf ▸ hn)

/-- Settles O13: the inbox presents the event its head decodes to. -/
theorem stepRunsThePresentedEvent : Obligations.StepRunsThePresentedEvent := by
  unfold Obligations.StepRunsThePresentedEvent
  exact fun s ev rest i hin hd => step_of_presented (presented_of_decode hin hd)

/-- Settles O14: each kind of presented word has its rule; the table is that of `accepts`. -/
theorem acceptanceCheck : Obligations.AcceptanceCheck := by
  unfold Obligations.AcceptanceCheck
  refine ⟨fun s ev rest hr hf hin => ⟨fun hl => ?illegal, fun i hd hn => ?rejected, fun i hd _ => ?accepted⟩,
    fun f => ?table⟩
  case illegal => exact step_of_not_legal hr (accepting_iff.2 hf) hin hl
  case rejected =>
    rw [step_of_presented (presented_of_decode hin hd)]
    exact exec_rejected (wf_of_decode hd) hr (accepting_iff.2 hf) hn
  case accepted => exact step_of_presented (presented_of_decode hin hd)
  case table => simp [accepts, accepting_iff]

/-- Settles O16: nothing at the head of the inbox is nothing presented. -/
theorem emptyInboxChangesNothing : Obligations.EmptyInboxChangesNothing := by
  unfold Obligations.EmptyInboxChangesNothing
  intro s hr hf hin
  refine step_empty hr hf ?_
  unfold presented
  split <;> simp_all

/-- Settles O20: the effect of `NOP` is none; a word of opcode 0 that is not 0 is none of the legal words. -/
theorem nopIsConsumedAndChangesNothing : Obligations.NopIsConsumedAndChangesNothing := by
  unfold Obligations.NopIsConsumedAndChangesNothing
  refine ⟨by decide, fun s hr hf => ⟨?nop, fun ev rest hin hop hne => ?illegal⟩⟩
  case nop => exact exec_accepted rfl hr (accepting_iff.2 hf)
  case illegal =>
    have hl : legal ev = false := by
      rw [← Bool.not_eq_true, legal_iff_toNat]
      simp only [hop]
      omega
    exact step_of_not_legal hr (accepting_iff.2 hf) hin hl

/-- Settles O21: `IDLE` takes `READ`, whose effect is the stated one; `STARTING` and `AWAITING` do not. -/
theorem readStartsACycleInIdle : Obligations.ReadStartsACycleInIdle := by
  unfold Obligations.ReadStartsACycleInIdle
  refine ⟨by decide, fun s hr => ⟨fun hf => exec_accepted_in rfl hr hf rfl, fun hf => hf.elim ?_ ?_⟩⟩
  · exact fun hf => exec_rejected_in rfl hr hf rfl rfl
  · exact fun hf => exec_rejected_in rfl hr hf rfl rfl

/-- Settles O22: `STARTING` takes `HOLD_ELAPSED`, which writes `line` and `fsm`; `IDLE` and `AWAITING` do not. -/
theorem holdElapsedReleasesTheLine : Obligations.HoldElapsedReleasesTheLine := by
  unfold Obligations.HoldElapsedReleasesTheLine
  refine ⟨by decide, fun s hr => ⟨fun hf => exec_accepted_in rfl hr hf rfl, fun hf => hf.elim ?_ ?_⟩⟩
  · exact fun hf => exec_rejected_in rfl hr hf rfl rfl
  · exact fun hf => exec_rejected_in rfl hr hf rfl rfl

/-- Settles O23: `AWAITING` takes `CAP_TIMEOUT` and is left to `DONE` with `TIMEOUT`, which the `DONE` cycle reports with
payload 0. -/
theorem capTimeoutEndsTheCycle : Obligations.CapTimeoutEndsTheCycle := by
  unfold Obligations.CapTimeoutEndsTheCycle
  refine ⟨by decide, fun s hr => ⟨fun hf => ?awaiting, exec_rejected_before_capture rfl (fun _ => rfl) hr⟩⟩
  case awaiting =>
    have hpayload : committedPayload .timeout s.blk.acc = 0#40 := committedPayload_eq_zero (by decide) _
    exact ⟨_, exec_accepted_in rfl hr hf rfl, rfl,
      fun hr' => ⟨_, step_done hr' rfl, rfl, rfl, hpayload, rfl, hpayload, rfl⟩⟩

end Sys2Proof.Machine
end

section
/-! The ports of a cycle (42_sequencer.md R161), and the two transient states that only pass on (R170, R174). -/

namespace Sys2Proof.Machine

variable {s t : State} {i : Instr} {f : Fsm}

/-- Settles O28: the `LISTENING` cycle, whatever the inbox presents. -/
theorem listeningStartsTheCapture : Obligations.ListeningStartsTheCapture := by
  unfold Obligations.ListeningStartsTheCapture
  exact fun s hr hf => step_listening hr hf

/-- Settles O30: the stated payload, status by status, is the one the `DONE` cycle commits. -/
theorem doneCommitsAndReports : Obligations.DoneCommitsAndReports := by
  unfold Obligations.DoneCommitsAndReports
  intro s hr hf p
  have hp : committedPayload s.blk.pend s.blk.acc = p := by
    simp only [p]
    cases s.blk.pend <;> rfl
  rw [step_done hr hf, hp]

/-- Of the events only `READ` sets a strobe (42_sequencer.md R163). -/
theorem effectOf_out (i : Instr) (s : State) :
    (effectOf i s).out =
      if i = .read then { s.out with armHold := true, armHoldMs := s.blk.cfg.holdMs } else s.out := by
  cases i <;> rfl

/-- The transient states are not accepting (00_scope.md R13). -/
theorem not_transient_of_accepting (hf : f.accepting = true) : f ≠ .listening ∧ f ≠ .decoding ∧ f ≠ .done := by
  obtain rfl | rfl | rfl := accepting_iff.1 hf <;> decide

/-- Settles O17, by the cases of a step: reset and the cycles of the accepting states set no strobe but `READ`'s, each
transient cycle sets its own. -/
theorem portsOfACycle : Obligations.PortsOfACycle := by
  unfold Obligations.PortsOfACycle
  intro s t h
  rw [← accepting_eq, Bool.and_comm]
  cases step_cases h with
  | reset hr ha _ ht => simp [ht, hr, ha, idleOutputs]
  | listening hr hf ha _ ht => simp [ht, hr, hf, ha, idleOutputs]
  | decoding hr hf ha _ ht => simp [ht, hr, hf, ha, idleOutputs]
  | done hr hf ha _ ht => simp [ht, hr, hf, ha, idleOutputs]
  | empty hr hf _ ha _ ht => simp [ht, hr, ha, idleOutputs, not_transient_of_accepting hf]
  | illegal hr hf _ ha _ ht => simp [ht, hr, ha, idleOutputs, not_transient_of_accepting hf]
  | rejected _ hr hf _ _ ha _ ht => simp [ht, hr, ha, idleOutputs, not_transient_of_accepting hf]
  | accepted i hr _ hy ha _ ht =>
    rw [ht, effectOf_out]
    by_cases hi : i = .read <;>
      simp [hr, ha, hi, idleOutputs, not_transient_of_accepting (accepting_of_accepts hy)]

theorem step_out_done (h : step s = .next t) : t.out.done = (!s.pinsNow.rst && s.blk.fsm == .done) := by
  obtain ⟨-, -, -, -, -, -, -, hdone, -⟩ := portsOfACycle s t h
  exact hdone

theorem code_eq_ok_iff (st : Status) : st.code = Status.ok.code ↔ st = .ok := by
  cases st <;> decide

/-- Settles O31: the strobe is the `DONE` cycle's, its code is `OK`'s only for `OK`, whose payload is the accumulator. -/
theorem doneStrobeIsTheCallback : Obligations.DoneStrobeIsTheCallback := by
  unfold Obligations.DoneStrobeIsTheCallback
  intro s t h
  obtain ⟨-, -, -, -, -, -, -, hdone, hcode, hpayload⟩ := portsOfACycle s t h
  by_cases hd : s.pinsNow.rst = false ∧ s.blk.fsm = .done
  · by_cases hok : s.blk.pend = .ok
    · simp [Outputs.callback, hdone, hcode, hpayload, hd, hok, committedPayload]
    · simp [Outputs.callback, hdone, hcode, hd, code_eq_ok_iff, hok]
  · have hquiet : t.out.done = false := by simpa [hdone] using hd
    simp [Outputs.callback, hquiet, hd]

end Sys2Proof.Machine
end

section
/-! Which state the sequencer goes to, and when it reports: the balance of `READ`s and strobes over a run
(42_sequencer.md R171, R173, R176). -/

namespace Sys2Proof.Machine

variable {s t : State} {i : Instr} {f : Fsm}

/-- The transition summary: the next sequencer state, by the accepted event, if any (42_sequencer.md R176). -/
def Fsm.next (took : Option Instr) : Fsm → Fsm
  | .idle => if took = some .read then .starting else .idle
  | .starting => if took = some .holdElapsed then .listening else .starting
  | .listening => .awaiting
  | .awaiting =>
    if took = some .bufEnd then .decoding
    else if took = some .capTimeout then .done
    else .awaiting
  | .decoding => .done
  | .done => .idle

/-- The events without an entry of their own in the summary. -/
def Passive (took : Option Instr) : Prop :=
  took ≠ some .read ∧ took ≠ some .holdElapsed ∧ took ≠ some .bufEnd ∧ took ≠ some .capTimeout

/-- They leave an accepting state as it is (42_sequencer.md R168, R169). -/
theorem next_of_passive {took : Option Instr} (hf : f.accepting = true) (hp : Passive took) : f.next took = f := by
  obtain ⟨hread, hhold, hend, htime⟩ := hp
  obtain rfl | rfl | rfl := accepting_iff.1 hf
  · exact if_neg hread
  · exact if_neg hhold
  · simp [Fsm.next, hend, htime]

/-- An accepted event leads where the summary says: it is one its state takes. -/
theorem effectOf_fsm_eq_next (hy : accepts i s.blk.fsm = true) :
    (effectOf i s).blk.fsm = s.blk.fsm.next (some i) := by
  cases i with
  | nop => exact (next_of_passive hy (by simp [Passive])).symm
  | clrFlags m => exact (next_of_passive hy (by simp [Passive])).symm
  | _ =>
    have hf := by simpa only [accepts, beq_iff_eq] using hy
    simp [effectOf, Fsm.next, hf]

/-- The sequencer follows the transition summary (42_sequencer.md R176). -/
theorem step_fsm (hr : s.pinsNow.rst = false) (hs : step s = .next t) :
    t.blk.fsm = s.blk.fsm.next (acceptedEvent s) := by
  have hnone : Passive none := by simp [Passive]
  cases step_cases hs with
  | reset hrst _ _ _ => simp [hr] at hrst
  | listening _ hf _ _ ht => rw [ht, hf]; rfl
  | decoding _ hf _ _ ht => rw [ht, hf]; rfl
  | done _ hf _ _ ht => rw [ht, hf]; rfl
  | empty _ hf _ ha _ ht => rw [ht, ha, next_of_passive hf hnone]; rfl
  | illegal _ hf _ ha _ ht => rw [ht, ha, next_of_passive hf hnone]; rfl
  | rejected _ _ hf _ _ ha _ ht => rw [ht, ha, next_of_passive hf hnone]; rfl
  | accepted i _ _ hy ha _ ht => rw [ht, ha, effectOf_fsm_eq_next (s := consume (beginCycle s)) hy]; rfl

/-- Settles O32: `Fsm.next` is the stated table. -/
theorem sequencerTransitions : Obligations.SequencerTransitions := by
  unfold Obligations.SequencerTransitions
  intro s t hr hs
  rw [step_fsm hr hs]
  cases s.blk.fsm <;> rfl

/-- `IDLE` is what `DONE` leads to, and where the block stays until a `READ` is accepted (42_sequencer.md R176). -/
theorem next_eq_idle_iff {took : Option Instr} :
    f.next took = .idle ↔ f = .done ∨ f = .idle ∧ took ≠ some .read := by
  cases f with
  | starting => by_cases hhold : took = some .holdElapsed <;> simp [Fsm.next, hhold]
  | awaiting =>
    simp only [Fsm.next]
    split_ifs <;> simp
  | _ => simp [Fsm.next]

/-- One cycle is in balance: it starts a read cycle exactly by accepting a `READ` and ends one exactly by its strobe
(42_sequencer.md R173). -/
theorem step_balance (hr : s.pinsNow.rst = false) (hs : step s = .next t) :
    (if acceptedEvent s = some .read then 1 else 0) + inProgress s =
      (if t.out.done then 1 else 0) + inProgress t := by
  have hdone := step_out_done hs
  have hend : t.blk.fsm = .idle ↔ s.blk.fsm = .done ∨ s.blk.fsm = .idle ∧ acceptedEvent s ≠ some .read := by
    rw [step_fsm hr hs, next_eq_idle_iff]
  by_cases hread : acceptedEvent s = some .read
  · have hidle := fsm_eq_idle_of_accepted_read hread
    simp [inProgress, hend, hdone, hread, hidle]
  · by_cases hidle : s.blk.fsm = .idle
    · simp [inProgress, hend, hdone, hread, hidle]
    · by_cases hd : s.blk.fsm = .done <;> simp [inProgress, hend, hdone, hr, hread, hidle, hd]

/-- Settles O54, by induction on the run: each of its cycles is in balance. -/
theorem oneDoneStrobePerAcceptedRead : Obligations.OneDoneStrobePerAcceptedRead := by
  unfold Obligations.OneDoneStrobePerAcceptedRead
  intro k s t hn hrun
  induction k generalizing s with
  | zero => cases hrun; rfl
  | succ k ih =>
    obtain ⟨s₁, hs, hrest⟩ := run_succ_next hrun
    have hcycle := step_balance (rst_of_noReset hn) hs
    have hlater := ih s₁ (noReset_step hn hs) hrest
    simp only [readsAccepted, doneStrobes, hs]
    omega

/-- A presented event survives a transient cycle (42_sequencer.md R160). -/
theorem heldInbox_of_some {ev : EvWord} {rest : List (Option EvWord)} (hin : s.inbox = some ev :: rest) :
    heldInbox s.inbox = s.inbox := by
  rw [hin]; rfl

/-- Settles O56: `DONE` and `LISTENING` are one cycle from an accepting state, `DECODING` is one from `DONE`. -/
theorem atMostTwoTransientCycles : Obligations.AtMostTwoTransientCycles := by
  unfold Obligations.AtMostTwoTransientCycles
  intro s ev rest hn hin
  have hr := rst_of_noReset hn
  have hheld := heldInbox_of_some hin
  cases hf : s.blk.fsm with
  | listening => exact ⟨1, _, by decide, run_succ (step_listening hr hf) 0, rfl, hheld, by simp, by simp⟩
  | done => exact ⟨1, _, by decide, run_succ (step_done hr hf) 0, rfl, hheld, by simp, by simp⟩
  | decoding =>
    have hs := step_decoding hr hf
    have hs₁ := step_done (rst_of_noReset (noReset_step hn hs)) rfl
    exact ⟨2, _, by decide, (run_succ hs 1).trans (run_succ hs₁ 0), rfl, (congrArg heldInbox hheld).trans hheld,
      by simp, by simp⟩
  | _ => exact ⟨0, s, by decide, rfl, by rw [hf]; rfl, rfl, by simp, by simp⟩

end Sys2Proof.Machine
end

section
/-! Several instances on one clock (42_sequencer.md R177). -/

namespace Sys2Proof.Machine

/-- Stepping the instances always answers, each with its own next state, in its own place. -/
theorem stepInsts_next (ss : List State) :
    ∃ ts, stepInsts ss = .next ts ∧ List.Forall₂ (fun s t => step s = .next t) ss ts := by
  induction ss with
  | nil => exact ⟨[], rfl, .nil⟩
  | cons s ss ih =>
    obtain ⟨t, hs⟩ := step_next s
    obtain ⟨ts, hss, hall⟩ := ih
    exact ⟨t :: ts, by simp [stepInsts, hs, hss], .cons hs hall⟩

/-- Settles O58: the system's step is its instances' steps, one by one. -/
theorem instancesAreIndependent : Obligations.InstancesAreIndependent := by
  unfold Obligations.InstancesAreIndependent
  intro m
  obtain ⟨ts, hstep, hall⟩ := stepInsts_next m.insts
  refine ⟨{ insts := ts }, by simp [System.step, hstep], hall.length_eq.symm, fun k s hk => ?_⟩
  obtain ⟨hlt, rfl⟩ := List.getElem?_eq_some_iff.1 hk
  have hlt' : k < ts.length := hall.length_eq ▸ hlt
  exact ⟨ts[k], List.getElem?_eq_getElem hlt', hall.get hlt hlt'⟩

end Sys2Proof.Machine
end

section
/-! What each register reads as a number, and the register image that a written word leaves behind: the fields of the
image, cut out of it again (43_host_interface.md R193, R197). -/

namespace Sys2Proof.Machine

variable {w n : Nat} {b : Block}

/-- A bit field is a digit of the number. -/
theorem extractLsb'_eq_iff (x : BitVec w) (start : Nat) (v : BitVec n) :
    x.extractLsb' start n = v ↔ x.toNat / 2 ^ start % 2 ^ n = v.toNat := by
  rw [← BitVec.toNat_inj, BitVec.extractLsb'_toNat, Nat.shiftRight_eq_div_pow]

/-- A single bit is a binary digit of the number. -/
theorem getLsbD_eq_iff (x : BitVec w) (k : Nat) (f : Bool) : x.getLsbD k = f ↔ x.toNat / 2 ^ k % 2 = f.toNat := by
  rw [BitVec.getLsbD, Nat.testBit_eq_decide_div_mod_eq]
  cases f <;> simp

/-! ### The registers as numbers -/

/-- `CTRL` (10_state.md R22). -/
theorem regRead_ctrl_toNat (b : Block) :
    (regRead b 0x0#4).toNat = b.cfg.policy.code.toNat + 2 ^ 8 * b.cfg.tickMul.toNat := by
  have hread : regRead b 0x0#4 = (b.cfg.tickMul ++ 0#7 ++ b.cfg.policy.code).setWidth 32 := rfl
  rw [hread, zext32_toNat _ (by decide), append_toNat, append_toNat, BitVec.toNat_ofNat]
  omega

/-- `LEN` (10_state.md R30). -/
theorem regRead_len_toNat (b : Block) :
    (regRead b 0x8#4).toNat = b.cfg.lenMin.toNat + 2 ^ 8 * b.cfg.lenMax.toNat :=
  (zext32_toNat (b.cfg.lenMax ++ b.cfg.lenMin) (by decide)).trans (append_toNat _ _)

/-- `TIMING` (10_state.md R31). -/
theorem regRead_timing_toNat (b : Block) :
    (regRead b 0x9#4).toNat = b.cfg.holdMs.toNat + 2 ^ 8 * b.cfg.captoMs.toNat :=
  (zext32_toNat (b.cfg.captoMs ++ b.cfg.holdMs) (by decide)).trans (append_toNat _ _)

/-- `STATUS` (10_state.md R32). -/
theorem regRead_status_toNat (b : Block) :
    (regRead b 0xA#4).toNat = b.fsm.code.toNat + 2 ^ 4 * b.resultCode.code.toNat + 2 ^ 8 * b.avail.toNat +
      2 ^ 9 * b.reject.toNat + 2 ^ 10 * b.illegal.toNat + 2 ^ 12 * b.line.code.toNat := by
  have hread : regRead b 0xA#4 = (b.line.code ++ 0#1 ++ flagBit b.illegal ++ flagBit b.reject ++ flagBit b.avail ++
    0#1 ++ b.resultCode.code ++ 0#1 ++ b.fsm.code).setWidth 32 := rfl
  rw [hread, zext32_toNat _ (by decide)]
  simp only [append_toNat, flagBit_toNat, BitVec.toNat_ofNat]
  omega

/-- `COUNT` (10_state.md R33). -/
theorem regRead_count_toNat (b : Block) :
    (regRead b 0xB#4).toNat = b.cnt.toNat + 2 ^ 8 * b.ackOk.toNat + 2 ^ 9 * b.bitErr.toNat +
      2 ^ 12 * b.pend.code.toNat := by
  have hread : regRead b 0xB#4 = (b.pend.code ++ 0#2 ++ flagBit b.bitErr ++ flagBit b.ackOk ++ b.cnt).setWidth 32 := rfl
  rw [hread, zext32_toNat _ (by decide)]
  simp only [append_toNat, flagBit_toNat, BitVec.toNat_ofNat]
  omega

/-- `PAYLOAD0` (10_state.md R34). -/
theorem regRead_payload0_toNat (b : Block) :
    (regRead b 0xC#4).toNat = (payloadByte b.payload 0).toNat + 2 ^ 8 * (payloadByte b.payload 1).toNat +
      2 ^ 16 * (payloadByte b.payload 2).toNat + 2 ^ 24 * (payloadByte b.payload 3).toNat := by
  have hread : regRead b 0xC#4 = payloadByte b.payload 3 ++ payloadByte b.payload 2 ++ payloadByte b.payload 1 ++
    payloadByte b.payload 0 := rfl
  rw [hread]
  simp only [append_toNat]
  omega

/-- `PAYLOAD1` (10_state.md R34). -/
theorem regRead_payload1_toNat (b : Block) : (regRead b 0xD#4).toNat = (payloadByte b.payload 4).toNat :=
  zext32_toNat (payloadByte b.payload 4) (by decide)

/-- Settles O3: each register is a concatenation of its fields, so a number with the fields as its digits, and a field
is read off as a digit of that number. -/
theorem everyRegisterReadIsItsFields : Obligations.EveryRegisterReadIsItsFields := by
  unfold Obligations.EveryRegisterReadIsItsFields
  refine ⟨fun b => ?numbers, fun b => ?status, fun b => ?count, fun b k hk => ?payload0, fun b => ?payload1,
    by decide, by decide, by decide, by decide⟩
  case numbers =>
    simp only [← payloadByte_toNat]
    exact ⟨regRead_ctrl_toNat b, append_toNat _ _, zext32_toNat _ (by decide), append_toNat _ _, append_toNat _ _,
      zext32_toNat _ (by decide), append_toNat _ _, append_toNat _ _, regRead_len_toNat b, regRead_timing_toNat b,
      regRead_status_toNat b, regRead_count_toNat b, regRead_payload0_toNat b, regRead_payload1_toNat b, rfl, rfl⟩
  case status =>
    have hfsm := b.fsm.code.isLt
    have hcode := b.resultCode.code.isLt
    have hline := b.line.code.isLt
    have havail := b.avail.toNat_lt
    have hreject := b.reject.toNat_lt
    have hillegal := b.illegal.toNat_lt
    simp only [extractLsb'_eq_iff, getLsbD_eq_iff, regRead_status_toNat, BitVec.toNat_ofNat, Bool.toNat_false]
    omega
  case count =>
    have hcnt := b.cnt.isLt
    have hpend := b.pend.code.isLt
    have hack := b.ackOk.toNat_lt
    have herr := b.bitErr.toNat_lt
    simp only [extractLsb'_eq_iff, getLsbD_eq_iff, regRead_count_toNat, BitVec.toNat_ofNat]
    omega
  case payload0 =>
    have hbyte (k : Nat) := (payloadByte b.payload k).isLt
    have h0 := hbyte 0
    have h1 := hbyte 1
    have h2 := hbyte 2
    have h3 := hbyte 3
    change _ = payloadByte b.payload k
    rw [extractLsb'_eq_iff, regRead_payload0_toNat]
    interval_cases k <;> omega
  case payload1 =>
    have hbyte := (payloadByte b.payload 4).isLt
    change _ = payloadByte b.payload 4 ∧ _
    rw [extractLsb'_eq_iff, extractLsb'_eq_iff, regRead_payload1_toNat, BitVec.toNat_ofNat]
    omega

end Sys2Proof.Machine
end

section
/-! `CFG_WRITE` and `CLR_FLAGS`: which word each is, and the whole next state it answers (43_host_interface.md R190,
R194). -/

namespace Sys2Proof.Machine

variable {s : State} {i : Instr}

/-! ### What a register write stores (43_host_interface.md R190) -/

theorem lenClamp_eq (v : BitVec 8) :
    lenClamp v = if v.toNat < 41 then 41#8 else if v.toNat = 255 then 254#8 else v := by
  revert v; decide

theorem legalHoldMs_eq (v : BitVec 8) : legalHoldMs v = BitVec.ofNat 8 (max v.toNat 18) := by
  revert v; decide

theorem legalCaptoMs_eq (v : BitVec 4) :
    legalCaptoMs v = if v = 0#4 then 1#4 else BitVec.ofNat 4 (min v.toNat 10) := by
  revert v; decide

/-! ### The two events -/

/-- An event term that no word stands for acts as the illegal word (43_host_interface.md R192). -/
theorem exec_illegal (hw : i.wf = false) (hr : s.pinsNow.rst = false) (hf : s.blk.fsm.accepting = true) :
    exec i s = .next (afterConsumed s { s.blk with illegal := true }) := by
  rw [exec_not_wf hw, presentIllegal_consumed hr hf]
  rfl

/-- `CFG_WRITE` names one of the registers 0 to 9 (30_encoding.md R86). -/
theorem wf_cfgWrite (idx : RegIdx) (d : RegWord) : (Instr.cfgWrite idx d).wf = decide (idx.toNat ≤ 9) := rfl

/-- The whole next state of an accepted `CFG_WRITE`. -/
theorem exec_cfgWrite_idle {idx : RegIdx} (hr : s.pinsNow.rst = false) (hf : s.blk.fsm = .idle) (hidx : idx.toNat ≤ 9)
    (d : RegWord) :
    exec (.cfgWrite idx d) s = .next (afterConsumed s { s.blk with cfg := writeCfg s.blk.cfg idx d }) :=
  exec_accepted_in (by simp [wf_cfgWrite, hidx]) hr hf rfl

/-- Settles O26: `IDLE` takes the write, which stores what `writeCfg` says of its index; `STARTING` and `AWAITING` do not
take it; an index above 9 has no encoding. -/
theorem cfgWriteWritesOneRegister : Obligations.CfgWriteWritesOneRegister := by
  unfold Obligations.CfgWriteWritesOneRegister
  refine ⟨fun idx d => packWord_toNat 2#4 idx d, fun s idx d hr ha => ⟨fun hf => ?idle, fun hf hidx => ?rejected,
    fun hidx => ?illegal⟩⟩
  case idle =>
    simp only [← lenClamp_eq, ← legalHoldMs_eq, ← legalCaptoMs_eq]
    have hnext {k : RegIdx} (hk : k.toNat ≤ 9) := exec_cfgWrite_idle hr hf hk d
    exact ⟨hnext (by decide), hnext (by decide), hnext (by decide), hnext (by decide), hnext (by decide),
      hnext (by decide), hnext (by decide), hnext (by decide), hnext (by decide), hnext (by decide)⟩
  case rejected =>
    have hw : (Instr.cfgWrite idx d).wf = true := by simp [wf_cfgWrite, hidx]
    obtain hf | hf := hf
    · exact exec_rejected_in hw hr hf rfl rfl
    · exact exec_rejected_in hw hr hf rfl rfl
  case illegal =>
    have hw : (Instr.cfgWrite idx d).wf = false := by simp [wf_cfgWrite]; omega
    exact exec_illegal hw hr ha

theorem clearIf_eq (maskBit flag : Bool) : clearIf maskBit flag = (flag && !maskBit) := by
  cases maskBit <;> simp [clearIf]

/-- Settles O27: every accepting state takes `CLR_FLAGS`; a word of opcode 3 with anything above `MASK` is none of the
legal words. -/
theorem clrFlagsClearsByItsMask : Obligations.ClrFlagsClearsByItsMask := by
  unfold Obligations.ClrFlagsClearsByItsMask
  refine ⟨fun mask => ?word, fun s hr hf => ⟨fun mask => ?clear, fun ev rest hin hop hne => ?illegal⟩⟩
  case word => rw [encode, packWord_toNat, zext32_toNat _ (by decide)]; rfl
  case clear =>
    rw [← clearIf_eq, ← clearIf_eq]
    exact exec_accepted rfl hr (accepting_iff.2 hf)
  case illegal =>
    have hl : legal ev = false := by
      rw [← Bool.not_eq_true, legal_iff_toNat]
      simp only [hop]
      omega
    exact step_of_not_legal hr (accepting_iff.2 hf) hin hl

/-- Settles O33: without reset the configuration stays or is written by an accepted `CFG_WRITE`, which only `IDLE`
accepts. -/
theorem configurationChangesOnlyInIdle : Obligations.ConfigurationChangesOnlyInIdle := by
  unfold Obligations.ConfigurationChangesOnlyInIdle
  intro s t hr hs
  refine ⟨fun hf => step_cfg_of_not_idle hr hf hs, fun hne => ?written⟩
  case written =>
    obtain ⟨hrst, -⟩ | hkept | hwritten := step_cfg_cases hs
    · exact absurd (hr.symm.trans hrst) (by decide)
    · exact absurd hkept hne
    · exact hwritten

end Sys2Proof.Machine
end

section
/-! The read port shows the state at the start of the cycle, and nothing of the cycle depends on the index it shows
(43_host_interface.md R195, R196). -/

namespace Sys2Proof.Machine

variable {s t : State}

/-- The machine with another index on the read port in the coming cycle. -/
def withRdIdx (idx : RegIdx) (s : State) : State :=
  { s with pins := { rst := s.pinsNow.rst, rdIdx := idx } :: s.pins.tail }

/-- The machine with another value shown on the read port. -/
def withRdData (x : RegWord) (s : State) : State := { s with out := { s.out with rdData := x } }

/-- An operation that passes the value on the read port on and reads nothing from it. -/
def PortBlind (f : State → State) : Prop := ∀ x s, f (withRdData x s) = withRdData x (f s)

theorem portBlind_id : PortBlind id := fun _ _ => rfl

theorem portBlind_illegal : PortBlind (fun t => flagIllegal (consume t)) := fun _ _ => rfl

theorem portBlind_effectOf (i : Instr) : PortBlind (effectOf i) := by
  intro x s
  cases i <;> rfl

/-- A presented event is judged by the sequencer state, not by the read port (42_sequencer.md R162). -/
theorem portBlind_judgeEvent (i : Instr) (f : Fsm) :
    PortBlind (fun t => if accepts i f then effectOf i (consume t) else flagReject (consume t)) := by
  cases accepts i f
  · exact fun _ _ => rfl
  · exact fun x s => portBlind_effectOf i x (consume s)

/-- A cycle shows the presented index of the old block, and is otherwise the cycle of any other index. -/
theorem cycle_withRdIdx {body : State → State} (hb : PortBlind body) (idx : RegIdx) (s : State) :
    cycle body (withRdIdx idx s) = withRdData (regRead s.blk idx) (cycle body s) := by
  have hbegin : beginCycle (withRdIdx idx s) = withRdData (regRead s.blk idx) (beginCycle s) := rfl
  have hrst : (withRdIdx idx s).pinsNow.rst = s.pinsNow.rst := rfl
  have hfsm : (withRdIdx idx s).blk.fsm = s.blk.fsm := rfl
  unfold cycle
  rw [hbegin, hrst, hfsm]
  split
  · rfl
  · split
    · rfl
    · rfl
    · rfl
    all_goals exact hb _ _

/-- The index on the read port decides `rd_data` and nothing else (43_host_interface.md R196). -/
theorem step_withRdIdx (idx : RegIdx) (h : step s = .next t) :
    step (withRdIdx idx s) = .next (withRdData (regRead s.blk idx) t) := by
  have hpres : presented (withRdIdx idx s) = presented s := rfl
  unfold step at h ⊢
  rw [hpres]
  cases hp : presented s with
  | nothing =>
    simp only [hp, Host.Outcome.next.injEq] at h ⊢
    subst h
    exact cycle_withRdIdx portBlind_id idx { s with inbox := s.inbox.tail }
  | illegal =>
    simp only [hp, Host.Outcome.next.injEq] at h ⊢
    subst h
    exact cycle_withRdIdx portBlind_illegal idx s
  | event i =>
    simp only [hp, exec_wf (wf_of_presented hp), Host.Outcome.next.injEq] at h ⊢
    subst h
    exact cycle_withRdIdx (portBlind_judgeEvent i s.blk.fsm) idx s

/-- Settles O6: the port shows the old state, and `step_withRdIdx`. -/
theorem readPortShowsTheOldStateAndHasNoEffect : Obligations.ReadPortShowsTheOldStateAndHasNoEffect := by
  unfold Obligations.ReadPortShowsTheOldStateAndHasNoEffect
  exact fun s t idx h => ⟨step_rdData h, step_withRdIdx idx h⟩

end Sys2Proof.Machine
end

section
/-! A register read after a configuration write (43_host_interface.md R193). -/

namespace Sys2Proof.Machine

/-- The block after register `idx` is written with `d`. -/
def Block.written (b : Block) (idx : RegIdx) (d : RegWord) : Block := { b with cfg := writeCfg b.cfg idx d }

variable (b : Block) (d : RegWord)

/-- No two registers share a field (10_state.md R21). -/
theorem regRead_written_of_ne {idx j : RegIdx} (h : j ≠ idx) : regRead (b.written idx d) j = regRead b j := by
  have hn : j.toNat ≠ idx.toNat := mt BitVec.eq_of_toNat_eq h
  unfold Block.written writeCfg
  generalize idx.toNat = n at hn
  split
  all_goals
    unfold regRead
    generalize j.toNat = m at hn
    split <;> try exact absurd rfl hn
  all_goals rfl

/-- A whole written word is its two halves. -/
theorem hiHalf_append_loHalf : hiHalf d ++ loHalf d = d := by
  apply BitVec.eq_of_toNat_eq
  rw [append_toNat, hiHalf, loHalf, BitVec.extractLsb'_toNat, BitVec.extractLsb'_toNat, Nat.shiftRight_eq_div_pow]
  omega

/-- The low half of a written word, the high half reserved. -/
theorem loHalf_zext : (loHalf d).setWidth 32 = d &&& 0x0000FFFF#32 := by
  apply BitVec.eq_of_toNat_eq
  rw [zext32_toNat _ (by decide), loHalf, BitVec.extractLsb'_toNat, BitVec.toNat_and]
  exact (Nat.and_two_pow_sub_one_eq_mod d.toNat 16).symm

/-- `CTRL` as written, its multiplier and policy bit kept and the other bits reserved. -/
theorem ctrl_image :
    (d.extractLsb' 8 8 ++ 0#7 ++ flagBit (d.getLsbD 0)).setWidth 32 = d &&& 0x0000FF01#32 := by
  apply BitVec.eq_of_getLsbD_eq
  intro k hk
  simp only [BitVec.getLsbD_setWidth, BitVec.getLsbD_append, BitVec.getLsbD_extractLsb', BitVec.getLsbD_and, flagBit]
  interval_cases k <;> simp

/-- `CTRL` with multiplier 1 and the written policy bit. -/
theorem ctrl_image_of_one :
    (1#8 ++ 0#7 ++ flagBit (d.getLsbD 0)).setWidth 32 = (d &&& 0x00000001#32) ||| 0x00000100#32 := by
  rw [BitVec.and_one_eq_setWidth_ofBool_getLsbD, flagBit]
  cases d.getLsbD 0 <;> rfl

theorem policy_code_ofBit (f : Bool) : (Policy.ofBit f).code = flagBit f := by cases f <;> rfl

/-- `CTRL` reads back as written, but for a multiplier of 0, which is stored as 1 (10_state.md R22). -/
theorem regRead_written_ctrl : regRead (b.written 0x0#4 d) 0x0#4 =
    if d.extractLsb' 8 8 = 0#8 then (d &&& 0x00000001#32) ||| 0x00000100#32 else d &&& 0x0000FF01#32 := by
  have hread : regRead (b.written 0x0#4 d) 0x0#4 =
    (legalTickMul (d.extractLsb' 8 8) ++ 0#7 ++ (Policy.ofBit (d.getLsbD 0)).code).setWidth 32 := rfl
  rw [hread, policy_code_ofBit, legalTickMul]
  split_ifs
  · exact ctrl_image_of_one d
  · exact ctrl_image d

/-- Eight bits of a written word, as a number. -/
theorem byte_toNat (start : Nat) : (d.extractLsb' start 8).toNat = d.toNat / 2 ^ start % 256 := by
  rw [BitVec.extractLsb'_toNat, Nat.shiftRight_eq_div_pow]

/-! What a clamped field stores, as a number (43_host_interface.md R190). -/

theorem lenClamp_toNat (v : BitVec 8) :
    (lenClamp v).toNat = if v.toNat < 41 then 41 else if v.toNat = 255 then 254 else v.toNat := by
  rw [lenClamp_eq]
  split_ifs <;> rfl

theorem legalHoldMs_toNat (v : BitVec 8) : (legalHoldMs v).toNat = max v.toNat 18 := by
  have := v.isLt
  rw [legalHoldMs_eq, BitVec.toNat_ofNat]
  omega

theorem legalCaptoMs_toNat (v : BitVec 4) :
    (legalCaptoMs v).toNat = if v.toNat = 0 then 1 else min v.toNat 10 := by
  revert v; decide

/-- `LEN` reads back its two bounds, each clamped (10_state.md R30). -/
theorem regRead_written_len_toNat : (regRead (b.written 0x8#4 d) 0x8#4).toNat =
    (lenClamp (d.extractLsb' 0 8)).toNat + 2 ^ 8 * (lenClamp (d.extractLsb' 8 8)).toNat :=
  regRead_len_toNat _

/-- `TIMING` reads back its two times, each clamped (10_state.md R31). -/
theorem regRead_written_timing_toNat : (regRead (b.written 0x9#4 d) 0x9#4).toNat =
    (legalHoldMs (d.extractLsb' 0 8)).toNat + 2 ^ 8 * (legalCaptoMs (d.extractLsb' 8 4)).toNat :=
  regRead_timing_toNat _

/-- Settles O5: the write leaves the block `Block.written`, whose registers read as before but for the written one. -/
theorem writtenRegisterReadsBackLegalised : Obligations.WrittenRegisterReadsBackLegalised := by
  unfold Obligations.WrittenRegisterReadsBackLegalised
  intro s idx d hr hf hidx
  refine ⟨_, exec_cfgWrite_idle hr hf hidx d, fun j _ hj => regRead_written_of_ne s.blk d hj, ?ctrl, ?whole, ?half, ?len,
    ?timing⟩
  case ctrl =>
    rintro rfl
    exact regRead_written_ctrl s.blk d
  case whole => rintro (rfl | rfl | rfl | rfl | rfl) <;> exact hiHalf_append_loHalf d
  case half => rintro (rfl | rfl) <;> exact loHalf_zext d
  case len =>
    rintro rfl
    refine (regRead_written_len_toNat s.blk d).trans ?_
    rw [lenClamp_toNat, lenClamp_toNat, byte_toNat, byte_toNat, Nat.pow_zero, Nat.div_one]
    rfl
  case timing =>
    rintro rfl
    refine (regRead_written_timing_toNat s.blk d).trans ?_
    rw [legalHoldMs_toNat, legalCaptoMs_toNat, byte_toNat, BitVec.extractLsb'_toNat, Nat.shiftRight_eq_div_pow,
      Nat.pow_zero, Nat.div_one]
    rfl

end Sys2Proof.Machine
end

section
/-! 60_exceptions.md: the block never stops (R223), the reported result stays readable (R239), and the duties of the
timer and the capture subsystem about events (R235). -/

namespace Sys2Proof.Machine

variable {s t u : State} {i : Instr} {f : Fsm} {d : Duties}

/-! ### The block never stops (60_exceptions.md R223) -/

/-- Every event, encoded or not, has a meaning in every state. -/
theorem exec_next (i : Instr) (s : State) : ∃ t, exec i s = .next t := by
  cases hw : i.wf with
  | true => exact ⟨_, exec_wf hw⟩
  | false => exact ⟨_, exec_not_wf hw⟩

theorem step_blk_of_reset (hr : s.pinsNow.rst = true) (hs : step s = .next t) : t.blk = Block.reset := by
  cases step_cases hs with
  | reset _ _ _ ht => rw [ht]; rfl
  | _ => simp_all

/-- The transition summary leads out of a transient state whatever is presented (42_sequencer.md R176). -/
theorem next_ne_self_of_transient (hf : f = .listening ∨ f = .decoding ∨ f = .done) (took : Option Instr) :
    f.next took ≠ f := by
  obtain rfl | rfl | rfl := hf <;> nofun

/-- A transient state is left by its own cycle, or by reset, which leads to `IDLE`. -/
theorem step_leaves_transient (hf : s.blk.fsm = .listening ∨ s.blk.fsm = .decoding ∨ s.blk.fsm = .done)
    (hs : step s = .next t) : t.blk.fsm ≠ s.blk.fsm := by
  cases hr : s.pinsNow.rst with
  | true =>
    rw [step_blk_of_reset hr hs]
    obtain hf | hf | hf := hf <;> rw [hf] <;> decide
  | false =>
    rw [step_fsm hr hs]
    exact next_ne_self_of_transient hf _

/-- An accepted event leads where the transition summary says. -/
theorem exec_accepted_fsm (hw : i.wf = true) (hr : s.pinsNow.rst = false) (hy : accepts i s.blk.fsm = true) :
    ∃ t, exec i s = .next t ∧ t.blk.fsm = s.blk.fsm.next (some i) :=
  ⟨_, exec_accepted hw hr hy, effectOf_fsm_eq_next (s := consume (beginCycle s)) hy⟩

/-- The event that takes a read cycle on from a waiting state. -/
def Fsm.wayOut : Fsm → Instr
  | .idle => .read
  | .starting => .holdElapsed
  | .awaiting => .bufEnd
  | .listening | .decoding | .done => .nop

/-- It is a well-formed event that the waiting state takes, and it leads out of it. -/
theorem wayOut_leaves (hf : f.accepting = true) :
    f.wayOut.wf = true ∧ accepts f.wayOut f = true ∧ f.next (some f.wayOut) ≠ f := by
  obtain rfl | rfl | rfl := accepting_iff.1 hf <;> decide

/-- Settles O19: steps and events answer by their definition, a transient state is left by its cycle, a waiting state by
the event `Fsm.wayOut` names. -/
theorem blockNeverStops : Obligations.BlockNeverStops := by
  unfold Obligations.BlockNeverStops
  refine ⟨step_next, exec_next, fun _ _ hf hs => step_leaves_transient hf hs, fun s hr hf => ?waiting⟩
  case waiting =>
    obtain ⟨hw, hy, hne⟩ := wayOut_leaves (accepting_iff.2 hf)
    obtain ⟨t, ht, hfsm⟩ := exec_accepted_fsm hw hr hy
    exact ⟨_, t, hw, ht, hfsm ▸ hne⟩

/-! ### The result stays (60_exceptions.md R239) -/

/-- The two blocks hold the same result. -/
def Block.SameResult (b c : Block) : Prop :=
  c.resultCode = b.resultCode ∧ c.payload = b.payload ∧ c.avail = b.avail

theorem sameResult_refl (b : Block) : b.SameResult b := ⟨rfl, rfl, rfl⟩

theorem Block.SameResult.trans {a b c : Block} (h : a.SameResult b) (h' : b.SameResult c) : a.SameResult c := by
  obtain ⟨hcode, hpayload, havail⟩ := h
  obtain ⟨hcode', hpayload', havail'⟩ := h'
  exact ⟨hcode'.trans hcode, hpayload'.trans hpayload, havail'.trans havail⟩

/-- Only an accepted `READ` and the `DONE` cycle write the result (10_state.md R42). -/
theorem step_sameResult (hr : s.pinsNow.rst = false) (hf : s.blk.fsm ≠ .done) (ha : acceptedEvent s ≠ some .read)
    (hs : step s = .next t) : s.blk.SameResult t.blk := by
  obtain ⟨-, hwritten, -⟩ := onlyReadAndDoneWriteTheResult s t hr hs
  by_contra hne
  simp only [Block.SameResult, not_and_or] at hne
  exact (hwritten hne).elim ha hf

/-- Without an accepted `READ` the block stays in `IDLE`, so it does not come to another `DONE` cycle. -/
theorem run_sameResult (k : Nat) (hn : s.noReset) (hf : s.blk.fsm = .idle) (hreads : readsAccepted k s = 0)
    (hrun : run k s = .next u) : s.blk.SameResult u.blk := by
  induction k generalizing s with
  | zero => cases hrun; exact sameResult_refl _
  | succ k ih =>
    obtain ⟨t, hs, hrest⟩ := run_succ_next hrun
    obtain ⟨hread, hreads₁⟩ := no_read_of_readsAccepted_succ hs hreads
    have hr := rst_of_noReset hn
    have hkept := step_sameResult hr (by simp [hf]) hread hs
    exact hkept.trans (ih (noReset_step hn hs) (step_stays_idle hr hf hread hs) hreads₁ hrest)

/-- Settles O55: the `DONE` cycle commits what it reports and leads to `IDLE`, where only a `READ` clears it. -/
theorem reportedResultStaysReadable : Obligations.ReportedResultStaysReadable := by
  unfold Obligations.ReportedResultStaysReadable
  intro s t u k hn hf hs hreads hrun
  have hn' := noReset_step hn hs
  rw [step_done (rst_of_noReset hn) hf] at hs
  cases hs
  obtain ⟨hcode, hpayload, havail⟩ := run_sameResult k hn' rfl hreads hrun
  exact ⟨congrArg Status.code hcode, hpayload, havail⟩

/-! ### Duties about events (60_exceptions.md R235) -/

theorem consumedEvent_of_accepted (ha : acceptedEvent s = some i) : consumedEvent s = some i := by
  obtain ⟨hr, hp, hy⟩ := acceptedEvent_eq_some_iff.1 ha
  simp [consumedEvent_accepting hr (accepting_of_accepts hy), hp]

theorem acceptedEvent_of_consumed (hc : consumedEvent s = some i) (hy : accepts i s.blk.fsm = true) :
    acceptedEvent s = some i := by
  simp [acceptedEvent, hc, hy]

/-- What is outstanding is what the sequencer waits for, so it takes every event the duties allow the timer and the
capture subsystem. -/
theorem accepts_of_allow (hm : d.Matches s.blk) (hd : d.allow i = true) (hi : fromHost i = false) :
    accepts i s.blk.fsm = true := by
  obtain ⟨hhold, hcapture⟩ := hm
  cases i with
  | holdElapsed => exact beq_iff_eq.2 (hhold.1 hd)
  | sample lo hi => exact beq_iff_eq.2 (hcapture.1 hd)
  | bufEnd => exact beq_iff_eq.2 (hcapture.1 hd)
  | capTimeout => exact beq_iff_eq.2 (hcapture.1 hd)
  | _ => cases hi

/-- Under the duties an event of the timer or the capture subsystem is consumed only by being accepted. -/
theorem consumedEvent_iff_accepted (hm : d.Matches s.blk) (hd : ∀ i, consumedEvent s = some i → d.allow i = true)
    (hi : fromHost i = false) : consumedEvent s = some i ↔ acceptedEvent s = some i :=
  ⟨fun hc => acceptedEvent_of_consumed hc (accepts_of_allow hm (hd i hc) hi), consumedEvent_of_accepted⟩

theorem next_eq_starting_iff {took : Option Instr} :
    f.next took = .starting ↔ f = .idle ∧ took = some .read ∨ f = .starting ∧ took ≠ some .holdElapsed := by
  cases f with
  | awaiting =>
    simp only [Fsm.next]
    split_ifs <;> simp
  | _ => simp [Fsm.next]

theorem next_eq_awaiting_iff {took : Option Instr} :
    f.next took = .awaiting ↔
      f = .listening ∨ f = .awaiting ∧ took ≠ some .bufEnd ∧ took ≠ some .capTimeout := by
  cases f with
  | idle => by_cases hread : took = some .read <;> simp [Fsm.next, hread]
  | starting => by_cases hhold : took = some .holdElapsed <;> simp [Fsm.next, hhold]
  | awaiting =>
    simp only [Fsm.next]
    split_ifs <;> simp_all
  | _ => simp [Fsm.next]

/-- A step asks for what the sequencer then waits for, and what it waited for is delivered when it moves on
(70_reset_and_hazards.md R270, R271). -/
theorem duties_match_after_step (hm : d.Matches s.blk) (hr : s.pinsNow.rst = false)
    (hd : ∀ i, consumedEvent s = some i → d.allow i = true) (hs : step s = .next t) :
    (d.after t.out (consumedEvent s)).Matches t.blk := by
  have htaken (i : Instr) (hi : fromHost i = false) := consumedEvent_iff_accepted hm hd hi
  obtain ⟨hhold, hcapture⟩ := hm
  obtain ⟨-, -, harm, -, hstart, -⟩ := portsOfACycle s t hs
  refine ⟨?hold, ?capture⟩
  case hold =>
    have hidle : acceptedEvent s = some .read ↔ s.blk.fsm = .idle ∧ acceptedEvent s = some .read :=
      (and_iff_right_of_imp fsm_eq_idle_of_accepted_read).symm
    rw [step_fsm hr hs, next_eq_starting_iff, ← hidle, ← hhold]
    simp [Duties.after, harm, htaken .holdElapsed rfl]
  case capture =>
    rw [step_fsm hr hs, next_eq_awaiting_iff, ← hcapture]
    simp [Duties.after, hstart, hr, htaken .bufEnd rfl, htaken .capTimeout rfl, and_assoc]

/-- Settles O57: a dutiful event of the timer or the capture subsystem is accepted, so what is outstanding follows the
sequencer, and a rejected event is the host's. -/
theorem dutifulTimerAndCaptureAreNeverRejected : Obligations.DutifulTimerAndCaptureAreNeverRejected := by
  unfold Obligations.DutifulTimerAndCaptureAreNeverRejected
  intro d s t hm hr hd hs
  refine ⟨duties_match_after_step hm hr hd hs, fun hclear hset => ?rejected⟩
  case rejected =>
    obtain ⟨-, -, hreject, -⟩ := stickyFlagsAreSetAndClearedOnlyByTheirRules s t hr hs
    obtain ⟨i, hc, hnone⟩ := (hreject hclear).1 hset
    refine ⟨i, hc, ?_⟩
    by_contra hi
    have ha := (consumedEvent_iff_accepted hm hd (Bool.eq_false_of_not_eq_true hi)).1 hc
    simp [hnone] at ha

end Sys2Proof.Machine
end

section
/-! 70_reset_and_hazards.md: reset abandons what is in progress (R260, R261), a block that nothing has programmed
classifies only `(0, 0)` (R264), and the cycle counts of a read cycle delivered back to back (R274). -/

namespace Sys2Proof.Machine

variable {s t u : State} {buf samples : List (Duration × Duration)} {rest : List (Option EvWord)}

/-! ### Reset (70_reset_and_hazards.md R260, R261) -/

theorem step_reset (hr : s.pinsNow.rst = true) :
    step s = .next (afterHeld s Block.reset (idleOutputs s.blk s.pinsNow)) := by
  rw [step_held (.inl hr), cycle_reset (s := held s) hr]
  rfl

/-- Settles O18: the reset cycle shows idle ports, holds the inbox and leaves the reset block. -/
theorem resetCycleAbandonsEverything : Obligations.ResetCycleAbandonsEverything := by
  unfold Obligations.ResetCycleAbandonsEverything
  intro s hr
  have hready : (idleOutputs s.blk s.pinsNow).evReady = false := by simp [idleOutputs, hr]
  exact ⟨_, step_reset hr, rfl, fun _ _ hin => heldInbox_of_some hin, hready, rfl, rfl, rfl, rfl, rfl, rfl, rfl, rfl,
    rfl, rfl⟩

/-! ### The unprogrammed classifier (70_reset_and_hazards.md R264) -/

/-- At reset `tick_mul` is 1, so durations are taken as they are (40_pulse_classifier.md R100). -/
theorem norm_reset (raw : Duration) : norm CfgRegs.reset raw = raw := by
  have hraw := raw.isLt
  have hmul : CfgRegs.reset.tickMul.toNat = 1 := rfl
  apply BitVec.eq_of_toNat_eq
  rw [norm_toNat, hmul]
  omega

/-- A window of width 0 at 0 holds 0 only (40_pulse_classifier.md R101). -/
theorem withinTol_zero_iff (d : Duration) : WithinTol d 0#16 0#16 ↔ d = 0#16 := by
  simp only [WithinTol, ← BitVec.toNat_inj, BitVec.toNat_ofNat]
  omega

/-- At reset both bit targets are `(0, 0)` with tolerance 0 (40_pulse_classifier.md R104). -/
theorem classifyBit_reset (lo hi : Duration) :
    classifyBit CfgRegs.reset lo hi = if lo = 0#16 ∧ hi = 0#16 then .bit0 else .err := by
  have hfits : pulseMatches lo hi 0#16 0#16 0#16 = true ↔ lo = 0#16 ∧ hi = 0#16 := by
    simp [pulseMatches_iff, withinTol_zero_iff]
  obtain ⟨hbit0, -, herr⟩ := clsWin_eq_iff CfgRegs.reset lo hi
  rw [classifyBit_of_window rfl, norm_reset, norm_reset]
  split_ifs with hzero
  · exact hbit0.2 (hfits.2 hzero)
  · exact herr.2 ⟨mt hfits.1 hzero, mt hfits.1 hzero⟩

/-- The loop over the data samples goes on only through samples `(0, 0)`, each a 0 shifted into 0. -/
theorem decodeBits_reset (samples : List (Duration × Duration)) :
    decodeBits CfgRegs.reset samples 0#40 = if ∀ p ∈ samples, p = (0#16, 0#16) then some 0#40 else none := by
  induction samples with
  | nil => simp [decodeBits]
  | cons p samples ih =>
    obtain ⟨lo, hi⟩ := p
    have hclass := classifyBit_reset lo hi
    by_cases hzero : lo = 0#16 ∧ hi = 0#16
    · obtain ⟨rfl, rfl⟩ := hzero
      have hshift : shiftIn 0#40 false = 0#40 := by decide
      simp [decodeBits, hclass, hshift, ih]
    · rw [if_neg hzero] at hclass
      simp [decodeBits_cons_of_err hclass, hzero]

/-- A frame that passes the length and acknowledgement checks ends as its data bits say (41_frame_decoder.md R130). -/
theorem decodeFrame_of_checks {c : CfgRegs} {lo hi : Duration} (hlow : c.lenMin.toNat ≤ samples.length + 1)
    (hhigh : samples.length + 1 ≤ c.lenMax.toNat) (hack : classifyAck c lo hi = true) :
    decodeFrame c ((lo, hi) :: samples) =
      (decodeBits c (samples.take Config.dataBits) 0#40).elim (.bitDecodeError, 0#40)
        fun a => if chkPass a then (.ok, a) else (.checksumError, a) := by
  rw [decodeFrame, List.length_cons, if_neg (by omega), if_neg (by omega)]
  refine (if_pos hack).trans ?_
  cases decodeBits c (samples.take Config.dataBits) 0#40 <;> rfl

/-- Settles O48: the loop gives 0, whose checksum is 0, when every data sample is `(0, 0)`, and stops otherwise. -/
theorem unprogrammedBlockClassifiesOnlyZero : Obligations.UnprogrammedBlockClassifiesOnlyZero := by
  unfold Obligations.UnprogrammedBlockClassifiesOnlyZero
  refine ⟨classifyBit_reset, fun lo hi samples hlow hhigh hack => ?frame⟩
  case frame =>
    have hmin : CfgRegs.reset.lenMin.toNat = 41 := rfl
    have hmax : CfgRegs.reset.lenMax.toNat = 42 := rfl
    have hchk : chkPass 0#40 = true := by decide
    refine (decodeFrame_of_checks (c := CfgRegs.reset) (by omega) (by omega) hack).trans ?_
    rw [decodeBits_reset, Config.dataBits]
    split_ifs with hzero
    · rw [Option.elim_some, if_pos hchk]
    · rfl

/-! ### Cycle counts (70_reset_and_hazards.md R274) -/

theorem run_succ_of_step {k : Nat} (h : run k s = .next t) (hs : step t = .next u) : run (k + 1) s = .next u := by
  rw [run_add k 1 h, run_succ hs]
  rfl

/-- The schedule of a read cycle, its samples by their words. -/
theorem readCycle_append (buf : List (Duration × Duration)) (rest : List (Option EvWord)) :
    readCycle buf ++ rest =
      some (encode .read) :: some (encode .holdElapsed) :: (sampleWords buf ++ some (encode .bufEnd) :: rest) := by
  simp [readCycle, sampleWords]

/-- The `LISTENING` cycle holds the capture events: there is no empty cycle before them. -/
theorem heldInbox_capture (buf : List (Duration × Duration)) (rest : List (Option EvWord)) :
    heldInbox (sampleWords buf ++ some (encode .bufEnd) :: rest) =
      sampleWords buf ++ some (encode .bufEnd) :: rest := by
  cases buf <;> rfl

/-- `READ` and `HOLD_ELAPSED` lead from `IDLE` to `LISTENING` in two cycles. -/
theorem run_to_listening (hn : s.noReset) (hf : s.blk.fsm = .idle)
    (hin : s.inbox = some (encode .read) :: some (encode .holdElapsed) :: rest) :
    ∃ t, run 2 s = .next t ∧ t.blk.fsm = .listening := by
  obtain ⟨hread, hin₁⟩ := quietRun_encode rfl (rst_of_noReset hn) (by simp [accepts, hf]) hin
  obtain ⟨hhold, -⟩ := quietRun_encode rfl (rst_of_noReset (noReset_run 1 hn hread.1)) rfl hin₁
  exact ⟨_, (hread.trans hhold).1, rfl⟩

/-- After three cycles and one a sample the block is in `AWAITING`, and `BUF_END` is presented. -/
theorem run_to_bufEnd (hn : s.noReset) (hf : s.blk.fsm = .idle) (hin : s.inbox = readCycle buf ++ rest) :
    ∃ t, run (3 + buf.length) s = .next t ∧ t.blk.fsm = .awaiting ∧ t.inbox = some (encode .bufEnd) :: rest := by
  rw [readCycle_append] at hin
  obtain ⟨s₁, hstart, hf₁, hframe, hin₁⟩ := quietRun_to_awaiting hn hf hin
  rw [heldInbox_capture] at hin₁
  obtain ⟨t, hsamples, hft, -, hint⟩ := quietRun_samples (noReset_run 3 hn hstart.1) hf₁ hframe hin₁
  exact ⟨t, (hstart.trans hsamples).1, hft, hint⟩

/-- Settles O53: each state of the read cycle is the one its cycle count names, and its step is the one its state
takes. -/
theorem readCycleTiming : Obligations.ReadCycleTiming := by
  unfold Obligations.ReadCycleTiming
  intro s buf rest hn hf hin
  obtain ⟨s₁, hrun₁, hf₁⟩ := run_to_listening hn hf (hin.trans (readCycle_append buf rest))
  obtain ⟨s₂, hrun₂, hf₂, hin₂⟩ := run_to_bufEnd hn hf hin
  have hlisten := step_listening (rst_of_noReset (noReset_run 2 hn hrun₁)) hf₁
  have hn₂ := noReset_run _ hn hrun₂
  have hend := acceptedEvent_of_encode rfl (rst_of_noReset hn₂) (by simp [accepts, hf₂]) hin₂
  have hs₂ := step_accepted hend
  have hrun₃ := run_succ_of_step hrun₂ hs₂
  have hn₃ := noReset_step hn₂ hs₂
  have hs₃ := step_decoding (rst_of_noReset hn₃) rfl
  have hrun₄ := run_succ_of_step hrun₃ hs₃
  have hs₄ := step_done (rst_of_noReset (noReset_step hn₃ hs₃)) rfl
  rw [show 3 + buf.length + 1 = 4 + buf.length by omega] at hrun₃
  rw [show 3 + buf.length + 1 + 1 = 5 + buf.length by omega] at hrun₄
  exact ⟨⟨s₁, _, hrun₁, hf₁, hlisten, rfl, rfl⟩, ⟨s₂, _, hrun₂, hf₂, hend, hs₂, rfl⟩, ⟨_, _, hrun₃, rfl, hs₃, rfl⟩,
    ⟨_, _, hrun₄, rfl, hs₄, rfl, rfl, by simp [afterHeld, effectOf, hin₂]⟩⟩

end Sys2Proof.Machine
end
